-- ==== Sys2Proof/Word.lean ====
section
/-! DEFINITION. The widths the spec gives its values (00_scope.md R5, R6; 30_encoding.md R71): bytes, words,
nibbles and 12-bit addresses. Every value of this hardware is unsigned. -/

namespace Sys2Proof

/-- An 8-bit cell: a general register, a timer, a byte of memory (R5 V_WIDTH, TIMER_WIDTH; R50). -/
abbrev Byte := BitVec 8

/-- A 16-bit value: an instruction word, `I`, `pc`, a stack entry (R5 I_WIDTH, PC_WIDTH, STACK_ENTRY_WIDTH). -/
abbrev Word := BitVec 16

/-- A 4-bit field: a register id, a sprite height, a key number (R6, R71). -/
abbrev Nibble := BitVec 4

/-- A 12-bit address as an instruction or a `Reset` event carries it (R50, R71). -/
abbrev Addr := BitVec 12

/-- MEM_SIZE: the address space is 0x000 to 0xFFF (R5, R50). -/
abbrev memSize : Nat := 4096

end Sys2Proof
end

