-- ==== Sys2Proof/Syntax.lean ====
section
/-! DEFINITION. The closed instruction set: one constructor for each of the 35 forms of 30_encoding.md R85, with the
operands the decoded Instruction carries (R72). Each docstring gives the row's mnemonic and the rule of its meaning. -/

namespace Sys2Proof

/-- "a closed tagged union", "one variant per form" (R85). -/
inductive Instr where
  /-- `CLS` (00E0), R146. -/
  | cls
  /-- `RET` (00EE), R103. -/
  | ret
  /-- `SYS nnn` (0nnn), R102. -/
  | sys (nnn : Addr)
  /-- `JP nnn` (1nnn), R104. -/
  | jp (nnn : Addr)
  /-- `CALL nnn` (2nnn), R105. -/
  | call (nnn : Addr)
  /-- `SE Vx, nn` (3xnn), R106. -/
  | seImm (x : Nibble) (nn : Byte)
  /-- `SNE Vx, nn` (4xnn), R107. -/
  | sneImm (x : Nibble) (nn : Byte)
  /-- `SE Vx, Vy` (5xy0), R108. -/
  | seReg (x y : Nibble)
  /-- `LD Vx, nn` (6xnn), R121. -/
  | ldImm (x : Nibble) (nn : Byte)
  /-- `ADD Vx, nn` (7xnn), R122. -/
  | addImm (x : Nibble) (nn : Byte)
  /-- `LD Vx, Vy` (8xy0), R123. -/
  | ldReg (x y : Nibble)
  /-- `OR Vx, Vy` (8xy1), R124. -/
  | orReg (x y : Nibble)
  /-- `AND Vx, Vy` (8xy2), R125. -/
  | andReg (x y : Nibble)
  /-- `XOR Vx, Vy` (8xy3), R126. -/
  | xorReg (x y : Nibble)
  /-- `ADD Vx, Vy` (8xy4), R127. -/
  | addReg (x y : Nibble)
  /-- `SUB Vx, Vy` (8xy5), R128. -/
  | sub (x y : Nibble)
  /-- `SHR Vx` (8xy6), R129: `y` is carried (R85) and ignored. -/
  | shr (x y : Nibble)
  /-- `SUBN Vx, Vy` (8xy7), R130. -/
  | subn (x y : Nibble)
  /-- `SHL Vx` (8xyE), R131: `y` is carried (R85) and ignored. -/
  | shl (x y : Nibble)
  /-- `SNE Vx, Vy` (9xy0), R109. -/
  | sneReg (x y : Nibble)
  /-- `LD I, nnn` (Annn), R155. -/
  | ldI (nnn : Addr)
  /-- `JP V0, nnn` (Bnnn), R110. -/
  | jpV0 (nnn : Addr)
  /-- `RND Vx, nn` (Cxnn), R141. -/
  | rnd (x : Nibble) (nn : Byte)
  /-- `DRW Vx, Vy, n` (Dxyn), R147. -/
  | drw (x y n : Nibble)
  /-- `SKP Vx` (Ex9E), R166. -/
  | skp (x : Nibble)
  /-- `SKNP Vx` (ExA1), R167. -/
  | sknp (x : Nibble)
  /-- `LD Vx, DT` (Fx07), R175. -/
  | ldVxDt (x : Nibble)
  /-- `LD Vx, K` (Fx0A), R168. -/
  | ldVxK (x : Nibble)
  /-- `LD DT, Vx` (Fx15), R176. -/
  | ldDtVx (x : Nibble)
  /-- `LD ST, Vx` (Fx18), R177. -/
  | ldStVx (x : Nibble)
  /-- `ADD I, Vx` (Fx1E), R156. -/
  | addI (x : Nibble)
  /-- `LD F, Vx` (Fx29), R157. -/
  | ldF (x : Nibble)
  /-- `LD B, Vx` (Fx33), R158. -/
  | ldB (x : Nibble)
  /-- `LD [I], Vx` (Fx55), R159. -/
  | dumpRegs (x : Nibble)
  /-- `LD Vx, [I]` (Fx65), R160. -/
  | restoreRegs (x : Nibble)
  deriving DecidableEq, Repr

end Sys2Proof
end

