-- ==== Sys2Proof/Decode.lean ====
section
/-! DEFINITION. The decoder (30_encoding.md R70 to R82), total on any bytes and naming why a word is unmapped, and
after it the encoder (R86) and the opcode table's mask and match of each form. -/

namespace Sys2Proof

/-- `W[15:12]`, the group selector (R71). -/
def opField (w : Word) : Nibble := w.extractLsb' 12 4
/-- `W[11:8]`, the first register id (R71). -/
def xField (w : Word) : Nibble := w.extractLsb' 8 4
/-- `W[7:4]`, the second register id (R71). -/
def yField (w : Word) : Nibble := w.extractLsb' 4 4
/-- `W[3:0]`, sub-operation, must-be-zero nibble or sprite height (R71). -/
def nField (w : Word) : Nibble := w.extractLsb' 0 4
/-- `W[7:0]`, the immediate or the selector (R71). -/
def nnField (w : Word) : Byte := w.extractLsb' 0 8
/-- `W[11:0]`, the 12-bit address (R71). -/
def nnnField (w : Word) : Addr := w.extractLsb' 0 12

/-- Why a word (or a byte string) decodes to nothing: the five kinds of unmapped word of R80, and fewer than
the two bytes an instruction has (R70). -/
inductive DecodeMiss where
  | group5NonzeroNibble
  | group9NonzeroNibble
  | group8Selector
  | groupESelector
  | groupFSelector
  | fewerThanTwoBytes
  deriving DecidableEq, Repr

/-- Group 0 (R75): the whole word is tested first; no word of the group is unmapped. -/
def decodeGroup0 (w : Word) : Instr :=
  if w = 0x00E0 then .cls else if w = 0x00EE then .ret else .sys (nnnField w)

/-- Group 8 (R77): nine sub-operations, the other seven nibbles unmapped. -/
def decodeGroup8 (w : Word) : Except DecodeMiss Instr :=
  let x := xField w
  let y := yField w
  match (nField w).toNat with
  | 0x0 => .ok (.ldReg x y)
  | 0x1 => .ok (.orReg x y)
  | 0x2 => .ok (.andReg x y)
  | 0x3 => .ok (.xorReg x y)
  | 0x4 => .ok (.addReg x y)
  | 0x5 => .ok (.sub x y)
  | 0x6 => .ok (.shr x y)
  | 0x7 => .ok (.subn x y)
  | 0xE => .ok (.shl x y)
  | _ => .error .group8Selector

/-- Group E (R78): two selectors. -/
def decodeGroupE (w : Word) : Except DecodeMiss Instr :=
  let x := xField w
  if nnField w = 0x9E then .ok (.skp x)
  else if nnField w = 0xA1 then .ok (.sknp x)
  else .error .groupESelector

/-- Group F (R79): nine selectors. -/
def decodeGroupF (w : Word) : Except DecodeMiss Instr :=
  let x := xField w
  if nnField w = 0x07 then .ok (.ldVxDt x)
  else if nnField w = 0x0A then .ok (.ldVxK x)
  else if nnField w = 0x15 then .ok (.ldDtVx x)
  else if nnField w = 0x18 then .ok (.ldStVx x)
  else if nnField w = 0x1E then .ok (.addI x)
  else if nnField w = 0x29 then .ok (.ldF x)
  else if nnField w = 0x33 then .ok (.ldB x)
  else if nnField w = 0x55 then .ok (.dumpRegs x)
  else if nnField w = 0x65 then .ok (.restoreRegs x)
  else .error .groupFSelector

/-- The group map (R74): "the high nibble of the first byte selects one of 16 groups". Total and pure (R81). -/
def decodeWord (w : Word) : Except DecodeMiss Instr :=
  match (opField w).toNat with
  | 0x0 => .ok (decodeGroup0 w)
  | 0x1 => .ok (.jp (nnnField w))
  | 0x2 => .ok (.call (nnnField w))
  | 0x3 => .ok (.seImm (xField w) (nnField w))
  | 0x4 => .ok (.sneImm (xField w) (nnField w))
  | 0x5 => if nField w = 0 then .ok (.seReg (xField w) (yField w)) else .error .group5NonzeroNibble
  | 0x6 => .ok (.ldImm (xField w) (nnField w))
  | 0x7 => .ok (.addImm (xField w) (nnField w))
  | 0x8 => decodeGroup8 w
  | 0x9 => if nField w = 0 then .ok (.sneReg (xField w) (yField w)) else .error .group9NonzeroNibble
  | 0xA => .ok (.ldI (nnnField w))
  | 0xB => .ok (.jpV0 (nnnField w))
  | 0xC => .ok (.rnd (xField w) (nnField w))
  | 0xD => .ok (.drw (xField w) (yField w) (nField w))
  | 0xE => decodeGroupE w
  | _ => decodeGroupF w

/-- The big-endian word of two bytes: byte 1 (the lower address) is `W[15:8]` (R70, 20_memory.md R53). -/
def wordOfBytes (byte1 byte2 : Byte) : Word := byte1 ++ byte2

/-- Byte 1 of a word, the one at the lower address (R70). -/
def byte1Of (w : Word) : Byte := w.extractLsb' 8 8

/-- Byte 2 of a word (R70). -/
def byte2Of (w : Word) : Byte := w.extractLsb' 0 8

/-- Decoding a byte string: the instruction its first two bytes are and the bytes after them. -/
def decodeBytes : List Byte → Except DecodeMiss (Instr × List Byte)
  | byte1 :: byte2 :: rest =>
    match decodeWord (wordOfBytes byte1 byte2) with
    | .ok ins => .ok (ins, rest)
    | .error miss => .error miss
  | [_] | [] => .error .fewerThanTwoBytes

/-- The 16-bit word the host's numbering `(nbits, w)` stands for: every instruction is one word (R70), whose bit 0 is
bit 0 of `w`; bits at `nbits` and above are 0. -/
def tableWord (nbits w : Nat) : Word := BitVec.ofNat 16 (w % 2 ^ nbits)

/-- What the decoder reads from an instruction numbered as spec/opcode_table.json numbers it: its two bytes are laid
out big-endian (R53) and decoded. -/
def decodeTableWord (nbits w : Nat) : Option Instr :=
  match decodeBytes [byte1Of (tableWord nbits w), byte2Of (tableWord nbits w)] with
  | .ok (ins, _) => some ins
  | .error _ => none

/-- Format A (R72): `op[4] nnn[12]`. -/
def wordA (op : Nibble) (nnn : Addr) : Word := op ++ nnn
/-- Formats I and S (R72): `op[4] x[4] nn[8]`. -/
def wordI (op x : Nibble) (nn : Byte) : Word := op ++ x ++ nn
/-- Format R (R72): `op[4] x[4] y[4] n[4]`. -/
def wordR (op x y n : Nibble) : Word := op ++ x ++ y ++ n

/-- The encoder (R86): each operand in its field of R71, the fixed bits of the form's row. -/
def encode : Instr → Word
  | .cls => 0x00E0
  | .ret => 0x00EE
  | .sys nnn => wordA 0x0 nnn
  | .jp nnn => wordA 0x1 nnn
  | .call nnn => wordA 0x2 nnn
  | .seImm x nn => wordI 0x3 x nn
  | .sneImm x nn => wordI 0x4 x nn
  | .seReg x y => wordR 0x5 x y 0x0
  | .ldImm x nn => wordI 0x6 x nn
  | .addImm x nn => wordI 0x7 x nn
  | .ldReg x y => wordR 0x8 x y 0x0
  | .orReg x y => wordR 0x8 x y 0x1
  | .andReg x y => wordR 0x8 x y 0x2
  | .xorReg x y => wordR 0x8 x y 0x3
  | .addReg x y => wordR 0x8 x y 0x4
  | .sub x y => wordR 0x8 x y 0x5
  | .shr x y => wordR 0x8 x y 0x6
  | .subn x y => wordR 0x8 x y 0x7
  | .shl x y => wordR 0x8 x y 0xE
  | .sneReg x y => wordR 0x9 x y 0x0
  | .ldI nnn => wordA 0xA nnn
  | .jpV0 nnn => wordA 0xB nnn
  | .rnd x nn => wordI 0xC x nn
  | .drw x y n => wordR 0xD x y n
  | .skp x => wordI 0xE x 0x9E
  | .sknp x => wordI 0xE x 0xA1
  | .ldVxDt x => wordI 0xF x 0x07
  | .ldVxK x => wordI 0xF x 0x0A
  | .ldDtVx x => wordI 0xF x 0x15
  | .ldStVx x => wordI 0xF x 0x18
  | .addI x => wordI 0xF x 0x1E
  | .ldF x => wordI 0xF x 0x29
  | .ldB x => wordI 0xF x 0x33
  | .dumpRegs x => wordI 0xF x 0x55
  | .restoreRegs x => wordI 0xF x 0x65

/-- The `mask` of the form's row of opcode_table.json. -/
def tableMask : Instr → Word
  | .cls | .ret => 0xFFFF
  | .sys _ | .jp _ | .call _ | .ldI _ | .jpV0 _ => 0xF000
  | .seImm _ _ | .sneImm _ _ | .ldImm _ _ | .addImm _ _ | .rnd _ _ | .drw _ _ _ => 0xF000
  | .seReg _ _ | .sneReg _ _ | .ldReg _ _ | .orReg _ _ | .andReg _ _ | .xorReg _ _ | .addReg _ _
  | .sub _ _ | .shr _ _ | .subn _ _ | .shl _ _ => 0xF00F
  | .skp _ | .sknp _ | .ldVxDt _ | .ldVxK _ | .ldDtVx _ | .ldStVx _ | .addI _ | .ldF _ | .ldB _
  | .dumpRegs _ | .restoreRegs _ => 0xF0FF

/-- The `match` of the form's row of opcode_table.json: a word `W` selects the row when `W & mask = match`
(and, for `SYS`, is not one of the two words of the row's `except` list, R75). -/
def tableMatch : Instr → Word
  | .cls => 0x00E0
  | .ret => 0x00EE
  | .sys _ => 0x0000
  | .jp _ => 0x1000
  | .call _ => 0x2000
  | .seImm _ _ => 0x3000
  | .sneImm _ _ => 0x4000
  | .seReg _ _ => 0x5000
  | .ldImm _ _ => 0x6000
  | .addImm _ _ => 0x7000
  | .ldReg _ _ => 0x8000
  | .orReg _ _ => 0x8001
  | .andReg _ _ => 0x8002
  | .xorReg _ _ => 0x8003
  | .addReg _ _ => 0x8004
  | .sub _ _ => 0x8005
  | .shr _ _ => 0x8006
  | .subn _ _ => 0x8007
  | .shl _ _ => 0x800E
  | .sneReg _ _ => 0x9000
  | .ldI _ => 0xA000
  | .jpV0 _ => 0xB000
  | .rnd _ _ => 0xC000
  | .drw _ _ _ => 0xD000
  | .skp _ => 0xE09E
  | .sknp _ => 0xE0A1
  | .ldVxDt _ => 0xF007
  | .ldVxK _ => 0xF00A
  | .ldDtVx _ => 0xF015
  | .ldStVx _ => 0xF018
  | .addI _ => 0xF01E
  | .ldF _ => 0xF029
  | .ldB _ => 0xF033
  | .dumpRegs _ => 0xF055
  | .restoreRegs _ => 0xF065

end Sys2Proof
end

