-- ==== Sys2Proof/Machine/Flags.lean ====
section
/-! DEFINITION. Every flag computation of 41_alu.md: each flag is one bit, written to VF as a full byte (R120). -/

namespace Sys2Proof.Machine

/-- "The flag is written as a full byte, 0x00 or 0x01" (R120). -/
def flagByte (flag : Bool) : Byte := if flag then 1 else 0

/-- Carry out of `a + b`: "set to 1 if the unmodded sum exceeds 255" (R127). -/
def carryOut (a b : Byte) : Bool := decide (a.toNat + b.toNat > 255)

/-- NOT borrow of `a - b`: 1 if `a >= b` (R128, R130). -/
def notBorrow (a b : Byte) : Bool := decide (a.toNat ≥ b.toNat)

/-- The bit a right shift moves out: the old bit 0 (R129). -/
def shiftedOutLow (a : Byte) : Bool := a.getLsbD 0

/-- The bit a left shift moves out: the old bit 7 (R131). -/
def shiftedOutHigh (a : Byte) : Bool := a.getLsbD 7

end Sys2Proof.Machine
end

