-- ==== Sys2Proof/Config.lean ====
section
/-! DEFINITION. The open parameters of the hardware (00_scope.md R5), fixed for one machine, and the free inputs
that the outside world answers with (10_state.md R35, R36): the latter are opaque, so nothing proved about the
model can depend on which answer came. -/

namespace Sys2Proof

/-- STACK_CAPACITY, "legal values 15 and 16" (R5, R29). -/
inductive StackCapacity where
  | fifteen
  | sixteen
  deriving DecidableEq, Repr

/-- The number of return addresses the stack holds (R29). -/
def StackCapacity.toNat : StackCapacity → Nat
  | .fifteen => 15
  | .sixteen => 16

/-- The parameters a model takes as arguments (R5): STACK_CAPACITY, FONT_BASE, FONT_IMAGE.
LOAD_ORIGIN is an argument of the `Reset` event (R9, R12), not of the machine. -/
structure Config where
  stackCapacity : StackCapacity
  fontBase      : Addr
  fontImage     : Option (Vector Byte 80)
  deriving DecidableEq, Repr

/-- The default of every parameter (R5): capacity 16, FONT_BASE 0x000, no FONT_IMAGE. -/
def Config.standard : Config :=
  { stackCapacity := .sixteen, fontBase := 0x000, fontImage := none }

/-- LOAD_ORIGIN's default (R5). -/
def Config.loadOrigin : Addr := 0x200

/-- FONT_BASE is legal when `FONT_BASE + 80 <= 4096` (70_reset_and_hazards.md R221). -/
def Config.wf (c : Config) : Bool := decide (c.fontBase.toNat + 80 ≤ memSize)

/-- The conventional glyph table of 93_implementation_defined.md G12, for a machine that is given a FONT_IMAGE.
PRESUMED by the spec itself (general knowledge); `Config.standard` does not hold it (log entry 8). -/
def Config.conventionalFont : Vector Byte 80 :=
  #v[0xF0, 0x90, 0x90, 0x90, 0xF0,  0x20, 0x60, 0x20, 0x20, 0x70,
     0xF0, 0x10, 0xF0, 0x80, 0xF0,  0xF0, 0x10, 0xF0, 0x10, 0xF0,
     0x90, 0x90, 0xF0, 0x10, 0x10,  0xF0, 0x80, 0xF0, 0x10, 0xF0,
     0xF0, 0x80, 0xF0, 0x90, 0xF0,  0xF0, 0x10, 0x20, 0x40, 0x40,
     0xF0, 0x90, 0xF0, 0x90, 0xF0,  0xF0, 0x90, 0xF0, 0x10, 0xF0,
     0xF0, 0x90, 0xF0, 0x90, 0x90,  0xE0, 0x90, 0xE0, 0x90, 0xE0,
     0xF0, 0x80, 0x80, 0x80, 0xF0,  0xE0, 0x90, 0x90, 0x90, 0xE0,
     0xF0, 0x80, 0xF0, 0x80, 0xF0,  0xF0, 0x80, 0xF0, 0x80, 0x80]

/-- FREE VALUE (log entry 4). The byte the randomness source answers to its `n`-th call: any of 0x00 to 0xFF,
"under no law" (R36, R140). -/
opaque Config.freeRandomByte : Nat → Byte

/-- FREE VALUE (log entry 5). What the keypad answers to the `n`-th call of `is_pressed`, asked about `key`: "a free
input of the step that asks" (R35, R165). -/
opaque Config.freeKeyPressed : Nat → Nibble → Bool

end Sys2Proof
end

