-- ==== Sys2Proof/Machine/State.lean ====
section
/-! DEFINITION. The whole state of the machine (10_state.md), as plain data, the reasons a step can stop, and the state
right after reset (R40). -/

namespace Sys2Proof.Machine

/-- The fault causes of 60_exceptions.md R191. A fault of the hardware is no stop of the model: it is a next state
whose `mode` is `halted` (R190, R200). -/
inductive Cause where
  | loadFault
  | invalidInstruction
  | stackOverflow
  | stackUnderflow
  | fetchFault
  | dataAddressFault
  deriving DecidableEq, Repr

/-- The engine's mode (R31): "State machine: {Running, AwaitingKey, Halted(fault)}". -/
inductive Mode where
  | running
  /-- `AwaitingKey(x)`, the register number latched at entry (R32). -/
  | awaitingKey (x : Nibble)
  /-- `Halted(cause, addr)`, the terminal state (R190). -/
  | halted (cause : Cause) (addr : Word)
  deriving DecidableEq, Repr

/-- The three events the host issues (00_scope.md R9). -/
inductive Event where
  /-- `Step(k)`: `none`, or a key value 0x0 to 0xF. -/
  | step (key : Option Nibble)
  /-- `Tick`. -/
  | tick
  /-- `Reset(program, origin)`. -/
  | reset (program : List Byte) (origin : Addr)
  deriving DecidableEq, Repr

/-- Memory as the listed (address, byte) pairs; what an unlisted address reads as is `unlistedByte`. Its canonical
form is `Memory.wf` (Machine/Ops.lean). -/
abbrev Memory := List Host.Cell

/-- The display buffer `DISP[py][px]`: 32 rows of 64 pixels, true = set (R34, 43_display.md R145). -/
abbrev Display := Vector (Vector Bool 64) 32

/-- Every pixel 0: the display after reset and after `CLS` (R40, R145). -/
def Display.blank : Display := Vector.replicate 32 (Vector.replicate 64 false)

/-- The state of the machine. The fields up to `disp` are the spec's; the last five are the model's own. -/
structure State where
  /-- `V[0]` to `V[15]` (R20); `V[15]` is VF, the flags register (R21). -/
  v : Vector Byte 16
  /-- The address register `I` (R23). -/
  i : Word
  /-- The program counter (R24). -/
  pc : Word
  /-- The delay timer (R26). -/
  dt : Byte
  /-- The sound timer (R27); the tone is the level `st != 0` (R28). -/
  st : Byte
  /-- The stack pointer: the number of live return addresses (R30). -/
  sp : BitVec 5
  /-- The call stack (R29); with STACK_CAPACITY 15 the sixteenth slot is unused. -/
  stack : Vector Word 16
  /-- The engine's mode (R31). -/
  mode : Mode
  /-- `mem[0x000 .. 0xFFF]` (R33, R50). -/
  mem : Memory
  /-- The display buffer, the collaborator's state that the model carries (R34). -/
  disp : Display
  /-- MODEL'S OWN: the machine's parameters (R5); no step changes them (log entry 3). -/
  cfg : Config
  /-- MODEL'S OWN: the events the host has issued and the machine has not yet taken, oldest first (log entry 1). -/
  pending : List Event
  /-- MODEL'S OWN: how often `Rng.next_byte` was called; indexes the free random bytes (log entry 4). -/
  rngDraws : Nat
  /-- MODEL'S OWN: how often `Keypad.is_pressed` was called; indexes the free answers (log entry 5). -/
  keyQueries : Nat
  /-- MODEL'S OWN: the calls made of `Audio.set_tone_active`, newest first (46_timers.md R179; log entry 6). -/
  audio : List Bool
  deriving DecidableEq, Repr

/-- Why the model itself stops. The faults of the hardware are not here: they are `Mode.halted`. -/
inductive Fault where
  /-- Raised by `RET` (Machine/Flow.lean) when SP names an entry the stack does not have (`SP > STACK_CAPACITY`).
  "depth never exceeds capacity" (10_state.md R30), so no run reaches such a state; safe (log entry 9). -/
  | noStackEntry
  deriving DecidableEq, Repr

/-- Why the model refuses. -/
inductive Refusal where
  /-- Raised by `exec` for an instruction that has no meaning yet: none is left. Safe. -/
  | notModelled (mnemonic : String)
  deriving DecidableEq, Repr

/-- The machine right after `Reset` of an empty program at the default origin (R40, 70_reset_and_hazards.md R221): every
value below is the spec's; the last five fields are the model's own (log entries 1, 3, 4, 5, 6). -/
def State.reset : State :=
  { v := Vector.replicate 16 0
    i := 0
    pc := Config.loadOrigin.setWidth 16
    dt := 0
    st := 0
    sp := 0
    stack := Vector.replicate 16 0
    mode := .running
    mem := []
    disp := Display.blank
    cfg := Config.standard
    pending := []
    rngDraws := 0
    keyQueries := 0
    audio := [] }

end Sys2Proof.Machine
end

