-- ==== Sys2Proof/Machine/Ops.lean ====
section
/-! DEFINITION. The named operations every meaning is written over: memory (20_memory.md), one read and one write per
register, the program counter (10_state.md R25), the call stack (R30), the four ports (00_scope.md R10), taking a fault
(60_exceptions.md R190), and the events `Tick` and `Reset`. There is no return from a fault (R201). -/

namespace Sys2Proof.Machine

/-- The outcome of one instruction or one event. -/
abbrev Result := Host.Outcome State Fault Refusal

/-! ## Memory -/

/-- What an address that is not listed reads as: memory is "reset to zero" (R40). -/
def unlistedByte : Byte := 0

/-- `MemRead(a, 1)` (R52). -/
def Memory.read : Memory → Nat → Byte
  | [], _ => unlistedByte
  | (b, x) :: m, a => if b = a then x else Memory.read m a

/-- Puts a cell in front of the first one with a higher address. -/
def Memory.insertCell (a : Nat) (x : Byte) : Memory → Memory
  | [] => [(a, x)]
  | (b, y) :: m => if a < b then (a, x) :: (b, y) :: m else (b, y) :: Memory.insertCell a x m

/-- `MemWrite(a, 1, x)` (R52): any cell of `a` goes, and `x` is listed unless it is what an unlisted address reads as. -/
def Memory.write (m : Memory) (a : Nat) (x : Byte) : Memory :=
  let others := m.filter (fun c => c.1 != a)
  if x = unlistedByte then others else Memory.insertCell a x others

/-- Byte stores at ascending addresses (R54, R58). -/
def Memory.writeBytes : Memory → Nat → List Byte → Memory
  | m, _, [] => m
  | m, a, x :: xs => Memory.writeBytes (m.write a x) (a + 1) xs

/-- The addresses rise strictly. -/
def Memory.rising : Memory → Bool
  | [] => true
  | [_] => true
  | (a, _) :: (b, y) :: m => decide (a < b) && Memory.rising ((b, y) :: m)

/-- The canonical form: addresses strictly rising and inside 0x000 to 0xFFF (R50), no cell listed that holds what an
unlisted address reads as. -/
def Memory.wf (m : Memory) : Bool :=
  m.rising && m.all (fun c => decide (c.1 < memSize) && c.2 != unlistedByte)

/-! ## Registers -/

/-- Read of `V[x]` (R7, R20): every field value names a register. -/
def State.getV (s : State) (x : Nibble) : Byte := s.v[x.toNat]'x.isLt
/-- `V[x] <- b` (R7, R20). -/
def State.setV (s : State) (x : Nibble) (b : Byte) : State := { s with v := s.v.set x.toNat b x.isLt }
/-- `I <- a` (R23). -/
def State.setI (s : State) (a : Word) : State := { s with i := a }
/-- `pc <- a` (R24). -/
def State.setPc (s : State) (a : Word) : State := { s with pc := a }
/-- `DT <- b` (R26). -/
def State.setDt (s : State) (b : Byte) : State := { s with dt := b }
/-- `ST <- b` with no port call; `State.setSound` is the write the rules speak of. -/
def State.setSt (s : State) (b : Byte) : State := { s with st := b }
/-- `SP <- n` (R30). -/
def State.setSp (s : State) (n : BitVec 5) : State := { s with sp := n }
/-- `stack[k] <- a` (R29). -/
def State.setStack (s : State) (k : Fin 16) (a : Word) : State := { s with stack := s.stack.set k.val a k.isLt }
/-- `mode <- m` (R31). -/
def State.setMode (s : State) (m : Mode) : State := { s with mode := m }
/-- Replaces memory. -/
def State.setMem (s : State) (m : Memory) : State := { s with mem := m }
/-- Replaces all of `V[0]` to `V[15]`. -/
def State.setRegs (s : State) (v : Vector Byte 16) : State := { s with v := v }
/-- Replaces the display buffer. -/
def State.setDisp (s : State) (d : Display) : State := { s with disp := d }
/-- Replaces the queue of host events. -/
def State.setPending (s : State) (es : List Event) : State := { s with pending := es }

/-- `VF`, the register every flag is written to (R21). -/
def vf : Nibble := 0xF

/-! ## The program counter -/

/-- A value of `pc` or `I`: every one written is reduced modulo 4096 (R23, R25). -/
def wrap12 (n : Nat) : Word := BitVec.ofNat 16 (n % memSize)

/-- `next = (pc + 2) mod 4096` (00_scope.md R7). -/
def nextPc (pc : Word) : Word := wrap12 (pc.toNat + 2)

/-- `skip = (pc + 4) mod 4096` (R7). -/
def skipPc (pc : Word) : Word := wrap12 (pc.toNat + 4)

/-- `pc <- next`. -/
def State.advance (s : State) : State := s.setPc (nextPc s.pc)

/-- `if cond: pc <- skip else: pc <- next`, one write and "not cumulative" (40_flow.md R101). -/
def State.skipIf (s : State) (cond : Bool) : State := s.setPc (if cond then skipPc s.pc else nextPc s.pc)

/-! ## The call stack -/

/-- STACK_CAPACITY of this machine (R29). -/
def State.capacity (s : State) : Nat := s.cfg.stackCapacity.toNat

/-- Push (R30): `none` where "pushing past capacity is a fault". -/
def State.push (s : State) (ret : Word) : Option State :=
  if s.sp.toNat < s.capacity then
    some ((s.setStack (Fin.ofNat 16 s.sp.toNat) ret).setSp (s.sp + 1))
  else none

/-- Pop with `SP > 0` (R30): `SP <- SP - 1` and the entry at the new SP, which keeps its value. `none` where SP names
an entry the stack does not have (log entry 9). -/
def State.pop (s : State) : Option (Word × State) :=
  if s.sp.toNat ≤ s.capacity then
    some (s.stack[Fin.ofNat 16 (s.sp.toNat - 1)], s.setSp (s.sp - 1))
  else none

/-! ## Ports -/

/-- The pixel at column `px` of row `py` (43_display.md R145). -/
def Display.pixel (d : Display) (px : Fin 64) (py : Fin 32) : Bool := d[py][px]

/-- `Display.xor_pixel(px, py)`: the pixel is flipped and its previous value returned (R145). -/
def Display.xorPixel (d : Display) (px : Fin 64) (py : Fin 32) : Bool × Display :=
  (d.pixel px py, d.set py (d[py].set px (!d.pixel px py)))

/-- `Display.clear()` (R145). -/
def State.clearDisplay (s : State) : State := s.setDisp Display.blank

/-- `Rng.next_byte()`: a free byte, one call counted (42_random.md R140; log entry 4). -/
def State.nextByte (s : State) : Byte × State :=
  (Config.freeRandomByte s.rngDraws, { s with rngDraws := s.rngDraws + 1 })

/-- `Keypad.is_pressed(key)`: a free answer, one call counted (45_keypad.md R165; log entry 5). -/
def State.isPressed (s : State) (key : Nibble) : Bool × State :=
  (Config.freeKeyPressed s.keyQueries key, { s with keyQueries := s.keyQueries + 1 })

/-- `Audio.set_tone_active(b)`: the call is recorded (46_timers.md R179; log entry 6). -/
def State.toneCall (s : State) (active : Bool) : State := { s with audio := active :: s.audio }

/-- `ST <- b`, with one audio call exactly when ST passes between zero and non-zero (R177, R179). -/
def State.setSound (s : State) (b : Byte) : State :=
  if (s.st == 0) != (b == 0) then (s.setSt b).toneCall (b != 0) else s.setSt b

/-! ## Taking a fault -/

/-- The number of each cause (60_exceptions.md R191). -/
def Cause.code : Cause → Nat
  | .loadFault => 1
  | .invalidInstruction => 2
  | .stackOverflow => 3
  | .stackUnderflow => 4
  | .fetchFault => 5
  | .dataAddressFault => 6

/-- `raise Fault(cause, pc)`: "abandon the event in progress, change no state but `mode`" (R190, R198, R200). The one
way into `Halted` for the causes 2 to 6; there is no vector, no saved register and no return (R201). -/
def raiseFault (cause : Cause) (s : State) : Result := .next (s.setMode (.halted cause s.pc))

/-! ## Fetch -/

/-- The fetch condition: `pc` even and at most 0xFFE (20_memory.md R53). -/
def fetchable (pc : Word) : Bool := !pc.getLsbD 0 && decide (pc.toNat ≤ 0xFFE)

/-- `MemRead(a, 2)`: the big-endian word at `a`, `a + 1` (R53). -/
def State.wordAt (s : State) (a : Nat) : Word := wordOfBytes (s.mem.read a) (s.mem.read (a + 1))

/-- `Fetch()` (R53): `none` where it raises FetchFault, having read nothing. -/
def State.fetch (s : State) : Option Word := if fetchable s.pc then some (s.wordAt s.pc.toNat) else none

/-! ## Host events -/

/-- The host's next event: the oldest pending one, and `Step(none)` when none is pending (log entry 1). -/
def State.nextEvent (s : State) : Event :=
  match s.pending with
  | [] => .step none
  | e :: _ => e

/-- The state once the next event is taken from the queue. -/
def State.takeEvent (s : State) : State := s.setPending s.pending.tail

/-- One timer's decrement, "floored at zero" (46_timers.md R178). -/
def countDown (b : Byte) : Byte := if b = 0 then 0 else b - 1

/-- `Tick` (R178): both timers in Running and AwaitingKey, nothing in Halted (R180). -/
def State.tick (s : State) : State :=
  match s.mode with
  | .running => (s.setDt (countDown s.dt)).setSound (countDown s.st)
  | .awaitingKey _ => (s.setDt (countDown s.dt)).setSound (countDown s.st)
  | .halted _ _ => s

/-- `Step(k)` in `AwaitingKey(x)` with a key: the waiting `LD Vx, K` completes (45_keypad.md R169). -/
def State.resumeKey (s : State) (x key : Nibble) : State :=
  ((s.setV x (key.setWidth 8)).advance).setMode .running

/-- Memory before the program is loaded: zero, and the 80 bytes at FONT_BASE when a FONT_IMAGE is given
(70_reset_and_hazards.md R221). -/
def fontMemory (cfg : Config) : Memory :=
  match cfg.fontImage with
  | none => []
  | some image => Memory.writeBytes [] cfg.fontBase.toNat image.toList

/-- The first part of `Reset`: everything zero, the display cleared, the font preloaded (R220, R221). The machine's
parameters, the pending events and the records of port calls are no state of the block and stay. -/
def State.zeroed (s : State) : State :=
  { State.reset with
    mem := fontMemory s.cfg, cfg := s.cfg, pending := s.pending, rngDraws := s.rngDraws,
    keyQueries := s.keyQueries, audio := s.audio }

/-- `Reset(program, origin)` (R221): zero everything, then load the program, or halt with LoadFault where it does not
fit, storing none of it (R66, R195). -/
def State.resetTo (s : State) (program : List Byte) (origin : Addr) : State :=
  let z := s.zeroed.setPc (origin.setWidth 16)
  if origin.toNat + program.length > memSize then z.setMode (.halted .loadFault (origin.setWidth 16))
  else (z.setMem (z.mem.writeBytes origin.toNat program)).setMode .running

/-! ## Placing an instruction where the next step fetches it -/

/-- The state in which the very next step is a `Step` event in Running at a fetchable `pc`: each part is changed only
where it is not so already. -/
def State.readyToFetch (s : State) : State :=
  ((s.setMode .running).setPc (if fetchable s.pc then s.pc else s.pc &&& 0x0FFE)).setPending
    (match s.pending with
      | [] => []
      | .step k :: es => .step k :: es
      | .tick :: es => .step none :: .tick :: es
      | .reset p o :: es => .step none :: .reset p o :: es)

/-- Stores a word big-endian at `pc` (R53). -/
def State.placeWord (s : State) (w : Word) : State :=
  s.setMem ((s.mem.write s.pc.toNat (byte1Of w)).write (s.pc.toNat + 1) (byte2Of w))

end Sys2Proof.Machine
end

