-- ==== Sys2Proof/Machine/Operands.lean ====
section
/-! DEFINITION. The operand forms beyond a plain register read: the machine's one addressing mode, "base `I` plus a
fixed ascending offset" with its range check (20_memory.md R55), the low nibble of a register, and the decimal digits. -/

namespace Sys2Proof.Machine

/-- `V[x][3:0]`: a key number or a hexadecimal digit (45_keypad.md R166, 44_memory_ops.md R157). -/
def lowNibble (b : Byte) : Nibble := b.extractLsb' 0 4

/-- The effective address `I + k`, "computed without wrapping" (R55). -/
def State.dataAddr (s : State) (k : Nat) : Nat := s.i.toNat + k

/-- The condition `CheckRange(count)` asks for: the highest of `count` bytes from `I` is at most 0xFFF; with
`count = 0` no check is made (R55). -/
def State.inRange (s : State) (count : Nat) : Bool :=
  count == 0 || decide (s.dataAddr (count - 1) ≤ 0xFFF)

/-- `CheckRange(count)` before the rest of an instruction (R55): the whole range is checked before any access. -/
def State.checkRange (s : State) (count : Nat) (rest : Result) : Result :=
  if s.inRange count then rest else raiseFault .dataAddressFault s

/-- The `count` bytes at `I`, ascending (R55, R58). -/
def State.readData (s : State) (count : Nat) : List Byte :=
  (List.range count).map fun k => s.mem.read (s.dataAddr k)

/-- Byte stores at `I`, ascending (R55, R58). -/
def State.writeData (s : State) (bytes : List Byte) : State :=
  s.setMem (s.mem.writeBytes (s.dataAddr 0) bytes)

/-- `V[0]` to `V[x]`, `x` included (44_memory_ops.md R159). -/
def State.regsUpTo (s : State) (x : Nibble) : List Byte := s.v.toList.take (x.toNat + 1)

/-- `V[0]` to `V[x]` taken from the bytes at `I`, the registers above `x` kept (R160). -/
def State.regsFromData (s : State) (x : Nibble) : Vector Byte 16 :=
  Vector.ofFn fun k => if k.val ≤ x.toNat then s.mem.read (s.dataAddr k.val) else s.v[k]

/-- `BCD(v)`: hundreds, tens, ones (R161). -/
def bcdDigits (b : Byte) : List Byte :=
  [BitVec.ofNat 8 (b.toNat / 100), BitVec.ofNat 8 (b.toNat / 10 % 10), BitVec.ofNat 8 (b.toNat % 10)]

end Sys2Proof.Machine
end

