-- ==== Sys2Proof/Machine/Alu.lean ====
section
/-! DEFINITION. 41_alu.md: register loads, the 8-bit arithmetic and logic, the five flag-writing instructions. Sources
are read first, then the result goes to `V[x]`, then the flag to VF (R120). -/

namespace Sys2Proof.Machine

/-- An instruction that writes only its destination: `V[x] <- r; pc <- next`. -/
def aluResult (x : Nibble) (r : Byte) (s : State) : Result := .next (s.setV x r).advance

/-- An instruction that writes a flag too: `V[x] <- r`, then `V[15] <- flag`, then `pc <- next` (R120). -/
def aluResultFlag (x : Nibble) (r : Byte) (flag : Bool) (s : State) : Result :=
  .next (((s.setV x r).setV vf (flagByte flag)).advance)

/-- `LD Vx, nn` (R121). -/
def execLdImm (x : Nibble) (nn : Byte) (s : State) : Result := aluResult x nn s

/-- `ADD Vx, nn` (R122): no flag is written. -/
def execAddImm (x : Nibble) (nn : Byte) (s : State) : Result := aluResult x (s.getV x + nn) s

/-- `LD Vx, Vy` (R123). -/
def execLdReg (x y : Nibble) (s : State) : Result := aluResult x (s.getV y) s

/-- `OR Vx, Vy` (R124). -/
def execOrReg (x y : Nibble) (s : State) : Result := aluResult x (s.getV x ||| s.getV y) s

/-- `AND Vx, Vy` (R125). -/
def execAndReg (x y : Nibble) (s : State) : Result := aluResult x (s.getV x &&& s.getV y) s

/-- `XOR Vx, Vy` (R126). -/
def execXorReg (x y : Nibble) (s : State) : Result := aluResult x (s.getV x ^^^ s.getV y) s

/-- `ADD Vx, Vy` (R127). -/
def execAddReg (x y : Nibble) (s : State) : Result :=
  aluResultFlag x (BitVec.ofNat 8 ((s.getV x).toNat + (s.getV y).toNat)) (carryOut (s.getV x) (s.getV y)) s

/-- `SUB Vx, Vy` (R128). -/
def execSub (x y : Nibble) (s : State) : Result :=
  aluResultFlag x (s.getV x - s.getV y) (notBorrow (s.getV x) (s.getV y)) s

/-- `SHR Vx` (R129): `V[y]` "is neither read nor written". -/
def execShr (x _y : Nibble) (s : State) : Result :=
  aluResultFlag x (s.getV x >>> 1) (shiftedOutLow (s.getV x)) s

/-- `SUBN Vx, Vy` (R130): `Vy - Vx`, still written to `V[x]`. -/
def execSubn (x y : Nibble) (s : State) : Result :=
  aluResultFlag x (s.getV y - s.getV x) (notBorrow (s.getV y) (s.getV x)) s

/-- `SHL Vx` (R131): the `y` field is "decoded and ignored". -/
def execShl (x _y : Nibble) (s : State) : Result :=
  aluResultFlag x (s.getV x <<< 1) (shiftedOutHigh (s.getV x)) s

end Sys2Proof.Machine
end

