-- ==== Sys2Proof/Machine/Flow.lean ====
section
/-! DEFINITION. 40_flow.md: the system call, jumps, call and return, and the four register and immediate skips. -/

namespace Sys2Proof.Machine

/-- `SYS nnn` (R102): "it does nothing and advances". -/
def execSys (_nnn : Addr) (s : State) : Result := .next s.advance

/-- `RET` (R103). -/
def execRet (s : State) : Result :=
  if s.sp = 0 then raiseFault .stackUnderflow s
  else
    match s.pop with
    | some (ret, s') => .next (s'.setPc ret)
    | none => .fault .noStackEntry

/-- `JP nnn` (R104). -/
def execJp (nnn : Addr) (s : State) : Result := .next (s.setPc (nnn.setWidth 16))

/-- `CALL nnn` (R105): `next` is pushed. -/
def execCall (nnn : Addr) (s : State) : Result :=
  match s.push (nextPc s.pc) with
  | some s' => .next (s'.setPc (nnn.setWidth 16))
  | none => raiseFault .stackOverflow s

/-- `SE Vx, nn` (R106). -/
def execSeImm (x : Nibble) (nn : Byte) (s : State) : Result := .next (s.skipIf (s.getV x == nn))

/-- `SNE Vx, nn` (R107). -/
def execSneImm (x : Nibble) (nn : Byte) (s : State) : Result := .next (s.skipIf (s.getV x != nn))

/-- `SE Vx, Vy` (R108). -/
def execSeReg (x y : Nibble) (s : State) : Result := .next (s.skipIf (s.getV x == s.getV y))

/-- `SNE Vx, Vy` (R109). -/
def execSneReg (x y : Nibble) (s : State) : Result := .next (s.skipIf (s.getV x != s.getV y))

/-- `JP V0, nnn` (R110): `pc <- (nnn + V[0]) mod 4096`. -/
def execJpV0 (nnn : Addr) (s : State) : Result := .next (s.setPc (wrap12 (nnn.toNat + (s.getV 0).toNat)))

end Sys2Proof.Machine
end

