-- ==== Sys2Proof/Machine/Keypad.lean ====
section
/-! DEFINITION. 45_keypad.md: the two key skips and the entry to the key wait. -/

namespace Sys2Proof.Machine

/-- `SKP Vx` (R166). -/
def execSkp (x : Nibble) (s : State) : Result :=
  let answer := s.isPressed (lowNibble (s.getV x))
  .next (answer.2.skipIf answer.1)

/-- `SKNP Vx` (R167). -/
def execSknp (x : Nibble) (s : State) : Result :=
  let answer := s.isPressed (lowNibble (s.getV x))
  .next (answer.2.skipIf !answer.1)

/-- `LD Vx, K` (R168), the entry: `mode <- AwaitingKey(x)` and nothing else; `pc` keeps the address of this word. -/
def execLdVxK (x : Nibble) (s : State) : Result := .next (s.setMode (.awaitingKey x))

end Sys2Proof.Machine
end

