-- ==== Sys2Proof/Machine/Memory.lean ====
section
/-! DEFINITION. 44_memory_ops.md: the address register, the decimal store, register dump and restore. No instruction
here that reads or writes memory changes `I` (R155 to R160). -/

namespace Sys2Proof.Machine

/-- `LD I, nnn` (R155). -/
def execLdI (nnn : Addr) (s : State) : Result := .next (s.setI (nnn.setWidth 16)).advance

/-- `ADD I, Vx` (R156): modulo 4096, no flag. -/
def execAddI (x : Nibble) (s : State) : Result :=
  .next (s.setI (wrap12 (s.i.toNat + (s.getV x).toNat))).advance

/-- `LD F, Vx` (R157): `I <- (FONT_BASE + 5 * d) mod 4096`, `d` the low nibble of `V[x]`. -/
def execLdF (x : Nibble) (s : State) : Result :=
  .next (s.setI (wrap12 (s.cfg.fontBase.toNat + 5 * (lowNibble (s.getV x)).toNat))).advance

/-- `LD B, Vx` (R158). -/
def execLdB (x : Nibble) (s : State) : Result :=
  s.checkRange 3 (.next (s.writeData (bcdDigits (s.getV x))).advance)

/-- `LD [I], Vx` (R159). -/
def execDumpRegs (x : Nibble) (s : State) : Result :=
  s.checkRange (x.toNat + 1) (.next (s.writeData (s.regsUpTo x)).advance)

/-- `LD Vx, [I]` (R160). -/
def execRestoreRegs (x : Nibble) (s : State) : Result :=
  s.checkRange (x.toNat + 1) (.next (s.setRegs (s.regsFromData x)).advance)

end Sys2Proof.Machine
end

