-- ==== Sys2Proof/Machine/Random.lean ====
section
/-! DEFINITION. 42_random.md: the random instruction. -/

namespace Sys2Proof.Machine

/-- `RND Vx, nn` (R141): one call of `Rng.next_byte`, also when `nn` is 0. -/
def execRnd (x : Nibble) (nn : Byte) (s : State) : Result :=
  let draw := s.nextByte
  .next (draw.2.setV x (draw.1 &&& nn)).advance

end Sys2Proof.Machine
end

