-- ==== Sys2Proof/Machine/Sprite.lean ====
section
/-! DEFINITION. 43_display.md: clearing the display, and the sprite blit and collision engine. -/

namespace Sys2Proof.Machine

/-- The pixels of one sprite row, columns 0 to 7: "bit 7 is the leftmost column", each at
`((x0 + col) mod 64, y mod 32)` (R147, R148). -/
def rowPixels (x0 y : Nat) (b : Byte) : List (Fin 64 × Fin 32) :=
  (List.range 8).filterMap fun col =>
    if b.getLsbD (7 - col) then some (Fin.ofNat 64 (x0 + col), Fin.ofNat 32 y) else none

/-- The pixels a sprite flips, row by row from `y0` down (R147). -/
def spritePixels (x0 y0 : Nat) : List Byte → List (Fin 64 × Fin 32)
  | [] => []
  | b :: rows => rowPixels x0 y0 b ++ spritePixels x0 (y0 + 1) rows

/-- One `xor_pixel` call per pixel, in order; the collision is the OR of what the calls return (R147, R149). -/
def blit (d : Display) (pixels : List (Fin 64 × Fin 32)) (collision : Bool) : Display × Bool :=
  match pixels with
  | [] => (d, collision)
  | p :: ps =>
    let call := d.xorPixel p.1 p.2
    blit call.2 ps (call.1 || collision)

/-- `CLS` (R146). -/
def execCls (s : State) : Result := .next s.clearDisplay.advance

/-- `DRW Vx, Vy, n` (R147): the range is checked before any pixel changes; VF is written last, always. -/
def execDrw (x y n : Nibble) (s : State) : Result :=
  s.checkRange n.toNat <|
    let pixels := spritePixels (s.getV x).toNat (s.getV y).toNat (s.readData n.toNat)
    let drawn := blit s.disp pixels false
    .next ((s.setDisp drawn.1).setV vf (flagByte drawn.2)).advance

end Sys2Proof.Machine
end

