-- ==== Sys2Proof/Machine/Timers.lean ====
section
/-! DEFINITION. 46_timers.md: the three instructions that reach the timers. The `Tick` event is `State.tick` of
Machine/Ops.lean. -/

namespace Sys2Proof.Machine

/-- `LD Vx, DT` (R175). -/
def execLdVxDt (x : Nibble) (s : State) : Result := .next (s.setV x s.dt).advance

/-- `LD DT, Vx` (R176). -/
def execLdDtVx (x : Nibble) (s : State) : Result := .next (s.setDt (s.getV x)).advance

/-- `LD ST, Vx` (R177): the audio port is called exactly when the tone's level changes (R179). -/
def execLdStVx (x : Nibble) (s : State) : Result := .next (s.setSound (s.getV x)).advance

end Sys2Proof.Machine
end

