-- ==== Sys2Proof/Machine/Engine.lean ====
section
/-! DEFINITION. What each host event does: the step contract (40_flow.md R100), `Step` in the other two modes
(45_keypad.md R169, R170; 60_exceptions.md R201), `Tick` and `Reset`. -/

namespace Sys2Proof.Machine

/-- `Step(k)` in Running (R100): fetch, decode, execute; an unmapped word raises InvalidInstruction. -/
def runInstruction (s : State) : Result :=
  match s.fetch with
  | none => raiseFault .fetchFault s
  | some w =>
    match decodeWord w with
    | .ok ins => exec ins s
    | .error _ => raiseFault .invalidInstruction s

/-- `Step(k)` (R171): in Running `k` is ignored. -/
def stepEvent (key : Option Nibble) (s : State) : Result :=
  match s.mode with
  | .running => runInstruction s
  | .awaitingKey x =>
    match key with
    | none => .next s
    | some k => .next (s.resumeKey x k)
  | .halted _ _ => .next s

/-- One event (00_scope.md R9). -/
def applyEvent (e : Event) (s : State) : Result :=
  match e with
  | .step key => stepEvent key s
  | .tick => .next s.tick
  | .reset program origin => .next (s.resetTo program origin)

end Sys2Proof.Machine
end

