-- ==== Sys2Proof/Machine/Step.lean ====
section
/-! DEFINITION. One step of the machine is one event of the host (00_scope.md R9, R11): the oldest pending one. -/

namespace Sys2Proof.Machine

/-- Takes the host's next event and applies it (log entry 1). -/
def step (s : State) : Host.Outcome State Fault Refusal := applyEvent s.nextEvent s.takeEvent

/-- `s` with the instruction `(nbits, w)` stored where the next step fetches, and that next step a `Step` event in
Running (log entry 2). -/
def State.withFetchWord (s : State) (nbits w : Nat) : State := s.readyToFetch.placeWord (tableWord nbits w)

end Sys2Proof.Machine
end

