-- ==== Sys2Proof/Safety.lean ====
section
/-! DEFINITION. What claims about the machine are written with: the invariant every run keeps, a safe state, the end of
a run, and the frame (which parts of the state two states share). -/

namespace Sys2Proof.Machine

/-- The recorded address of a halt is `pc` itself: "`pc` stays at the faulting instruction and equals the recorded
address" (60_exceptions.md R198; 70_reset_and_hazards.md R221 for LoadFault). -/
def Mode.agreesWithPc (m : Mode) (pc : Word) : Bool :=
  match m with
  | .halted _ a => a == pc
  | .running | .awaitingKey _ => true

/-- The invariant of the machine: `pc`, `I` and every stack entry within 0x000 to 0xFFF (10_state.md R23, R24, R29),
"depth never exceeds capacity" (R30), the recorded address of a halt is `pc` (R198), memory in its canonical form
inside the address space (R50), and a legal FONT_BASE (R221). -/
structure State.Inv (s : State) : Prop where
  pc_lt : s.pc.toNat < memSize
  i_lt : s.i.toNat < memSize
  stack_lt : ∀ k : Fin 16, s.stack[k].toNat < memSize
  sp_le : s.sp.toNat ≤ s.capacity
  halted_at_pc : s.mode.agreesWithPc s.pc = true
  mem_wf : s.mem.wf = true
  cfg_wf : s.cfg.wf = true

/-- A safe state: the engine has not halted (60_exceptions.md R190, R201). -/
def State.safe (s : State) : Bool :=
  match s.mode with
  | .halted _ _ => false
  | .running | .awaitingKey _ => true

/-- The successful end of a run, a convention of the spec (70_reset_and_hazards.md R232): Running, and the word at
`pc` is `JP pc`, "the word `0x1000 | pc`". -/
def State.atEnd (s : State) : Prop := s.mode = .running ∧ s.wordAt s.pc.toNat = 0x1000 ||| s.pc

/-- The bit of a sprite that lands on a pixel: the sprite of `n` rows at `I`, drawn from `(x0, y0)`, has a set bit at
some row and column whose pixel is `(px, py)` (43_display.md R147, R148). -/
def State.spriteCovers (s : State) (x0 y0 : Byte) (n : Nibble) (px : Fin 64) (py : Fin 32) : Prop :=
  ∃ row < n.toNat, ∃ col < 8,
    (s.mem.read (s.i.toNat + row)).getLsbD (7 - col) = true ∧
      px.val = (x0.toNat + col) % 64 ∧ py.val = (y0.toNat + row) % 32

/-- What `Reset` leaves at an address before it loads the program: the font byte where the machine has a FONT_IMAGE that
covers it, else 0 (70_reset_and_hazards.md R221, 10_state.md R40). -/
def fontByte (cfg : Config) (a : Nat) : Byte :=
  match cfg.fontImage with
  | none => 0
  | some image =>
    if h : cfg.fontBase.toNat ≤ a ∧ a - cfg.fontBase.toNat < 80 then image[a - cfg.fontBase.toNat] else 0

/-- One part of the state, for saying what an instruction may change. -/
inductive Part where
  | reg (x : Nibble)
  | i
  | pc
  | dt
  | st
  | sp
  | stackEntry (k : Fin 16)
  | mode
  | memByte (a : Nat)
  | pixel (px : Fin 64) (py : Fin 32)
  | cfg
  | pending
  | rngDraws
  | keyQueries
  | audio
  deriving DecidableEq, Repr

/-- Two states have the same value in one part; memory is compared through the read of one byte. -/
def State.samePart (s t : State) : Part → Prop
  | .reg x => t.getV x = s.getV x
  | .i => t.i = s.i
  | .pc => t.pc = s.pc
  | .dt => t.dt = s.dt
  | .st => t.st = s.st
  | .sp => t.sp = s.sp
  | .stackEntry k => t.stack[k] = s.stack[k]
  | .mode => t.mode = s.mode
  | .memByte a => t.mem.read a = s.mem.read a
  | .pixel px py => t.disp.pixel px py = s.disp.pixel px py
  | .cfg => t.cfg = s.cfg
  | .pending => t.pending = s.pending
  | .rngDraws => t.rngDraws = s.rngDraws
  | .keyQueries => t.keyQueries = s.keyQueries
  | .audio => t.audio = s.audio

/-- The frame: `t` has every part of `s` but those in `changed`. -/
def State.onlyChanges (s t : State) (changed : Part → Prop) : Prop :=
  ∀ p, ¬ changed p → s.samePart t p

/-- The parts of the state an instruction may write: the "written by" column of 10_state.md R38, row by row, with the
bytes and pixels the instruction's own rule names. (`mode` is written by `LD Vx, K` and by an instruction that raises
a fault, R38.) -/
def Instr.mayWrite (ins : Instr) (s : State) : Part → Prop
  | .reg r =>
    match ins with
    | .ldImm x _ | .addImm x _ | .ldReg x _ | .orReg x _ | .andReg x _ | .xorReg x _ | .rnd x _ | .ldVxDt x => r = x
    | .addReg x _ | .sub x _ | .shr x _ | .subn x _ | .shl x _ => r = x ∨ r = vf
    | .drw _ _ _ => r = vf
    | .restoreRegs x => r.toNat ≤ x.toNat
    | .cls | .ret | .sys _ | .jp _ | .call _ | .seImm _ _ | .sneImm _ _ | .seReg _ _ | .sneReg _ _ | .ldI _
    | .jpV0 _ | .skp _ | .sknp _ | .ldVxK _ | .ldDtVx _ | .ldStVx _ | .addI _ | .ldF _ | .ldB _ | .dumpRegs _ => False
  | .i => (∃ nnn, ins = .ldI nnn) ∨ (∃ x, ins = .addI x) ∨ ∃ x, ins = .ldF x
  | .pc => ∀ x, ins ≠ .ldVxK x
  | .dt => ∃ x, ins = .ldDtVx x
  | .st | .audio => ∃ x, ins = .ldStVx x
  | .sp => ins = .ret ∨ ∃ nnn, ins = .call nnn
  | .stackEntry k => (∃ nnn, ins = .call nnn) ∧ k.val = s.sp.toNat
  | .mode => (∃ x, ins = .ldVxK x) ∨ ins = .ret ∨ (∃ nnn, ins = .call nnn) ∨ (∃ x y n, ins = .drw x y n) ∨
      (∃ x, ins = .ldB x) ∨ (∃ x, ins = .dumpRegs x) ∨ ∃ x, ins = .restoreRegs x
  | .memByte a => (∃ x, ins = .ldB x ∧ s.i.toNat ≤ a ∧ a ≤ s.i.toNat + 2) ∨
      ∃ x, ins = .dumpRegs x ∧ s.i.toNat ≤ a ∧ a ≤ s.i.toNat + x.toNat
  | .pixel px py => ins = .cls ∨ ∃ x y n, ins = .drw x y n ∧ s.spriteCovers (s.getV x) (s.getV y) n px py
  | .rngDraws => ∃ x nn, ins = .rnd x nn
  | .keyQueries => (∃ x, ins = .skp x) ∨ ∃ x, ins = .sknp x
  | .cfg | .pending => False

/-- The instruction a Running engine with a `Step` event to take would execute, if the fetch and the decode succeed
(40_flow.md R100). -/
def State.fetched (s : State) : Option Instr :=
  match s.fetch with
  | none => none
  | some w => (decodeWord w).toOption

/-- The next event is a `Step` and the engine is Running: this step executes an instruction or raises a fault. -/
def State.executes (s : State) : Prop := s.mode = .running ∧ ∃ k, s.nextEvent = .step k

end Sys2Proof.Machine
end

