-- ==== Sys2Proof/Certificates/Slice0/Obligations.lean ====
section
/-! DEFINITION. The statements for the provers, from the spec's numbered rules. Where a clause rests on a decision of
spec/92_eei_decisions.md (D<n>) or on one of this model's log entries, the docstring says so. -/

open Sys2Proof Sys2Proof.Machine

/-! ## The encoding (30_encoding.md) -/

/-- Words the spec gives, decoded: its own examples S2, S3, S11 to S14 of 95_test_vectors.md part 1, AL1 of part 2
for Format I, and one word for each further format. -/
def Obligations.SpecWordsDecodeAsTheSpecSays : Prop :=
  decodeBytes [0x00, 0xE0] = .ok (.cls, []) ∧
  decodeBytes [0xA2, 0x34] = .ok (.ldI 0x234, []) ∧
  decodeBytes [0x82, 0x14] = .ok (.addReg 2 1, []) ∧
  decodeBytes [0x6A, 0x2B] = .ok (.ldImm 0xA 0x2B, []) ∧
  decodeBytes [0x12, 0x00] = .ok (.jp 0x200, []) ∧
  decodeBytes [0x50, 0x01] = .error .group5NonzeroNibble ∧
  decodeBytes [0x80, 0x08] = .error .group8Selector ∧
  decodeBytes [0x00, 0xFD] = .ok (.sys 0x0FD, []) ∧
  decodeBytes [0xD0, 0x12] = .ok (.drw 0 1 2, []) ∧
  decodeBytes [0xF2, 0x65] = .ok (.restoreRegs 2, [])

/-- R81: every word decodes to exactly one valid Instruction or to nothing, "two different words never decode to the
same Instruction value (operands included), and `decode(encode(i)) = i` for every Instruction `i`". -/
def Obligations.DecodeInvertsEncode : Prop :=
  (∀ ins : Instr, ins.wellFormed = true → decodeWord (encode ins) = .ok ins) ∧
  (∀ (w : Word) (ins : Instr), decodeWord w = .ok ins → ins.wellFormed = true) ∧
  (∀ (w w' : Word) (ins : Instr), decodeWord w = .ok ins → decodeWord w' = .ok ins → w = w')

/-- No bit of a mapped word is dropped: encoding what a word decodes to gives the word back (R71, R72, R86). -/
def Obligations.EncodeInvertsDecode : Prop :=
  ∀ (w : Word) (ins : Instr), decodeWord w = .ok ins → encode ins = w

/-- Exactly the five kinds of word of R80 are unmapped. -/
def Obligations.UnmappedWordsAreExactlyThese : Prop :=
  ∀ w : Word, (∃ miss, decodeWord w = .error miss) ↔
    (opField w = 0x5 ∧ nField w ≠ 0) ∨ (opField w = 0x9 ∧ nField w ≠ 0) ∨
    (opField w = 0x8 ∧ (nField w = 0x8 ∨ nField w = 0x9 ∨ nField w = 0xA ∨ nField w = 0xB ∨ nField w = 0xC ∨
      nField w = 0xD ∨ nField w = 0xF)) ∨
    (opField w = 0xE ∧ nnField w ≠ 0x9E ∧ nnField w ≠ 0xA1) ∨
    (opField w = 0xF ∧ nnField w ∉ [0x07, 0x0A, 0x15, 0x18, 0x1E, 0x29, 0x33, 0x55, 0x65])

/-- The decoder agrees with the opcode table: a word selects a row (`W & mask = match`, and for `SYS` not one of the
`except` words) exactly when it decodes to that row's form; so no two rows select the same word. -/
def Obligations.DecoderAgreesWithOpcodeTable : Prop :=
  ∀ (w : Word) (ins : Instr),
    (w &&& tableMask ins = tableMatch ins ∧ (tableMatch ins = 0x0000 → w ≠ 0x00E0 ∧ w ≠ 0x00EE)) ↔
      ∃ ins', decodeWord w = .ok ins' ∧ tableMatch ins' = tableMatch ins

/-! ## The step (40_flow.md 1, 20_memory.md 3, 45_keypad.md 3, 46_timers.md 2, 60_exceptions.md 1, 70 1) -/

/-- R100: a `Step(k)` in Running whose fetched bytes decode executes that instruction, whatever `k` is (D17); `step`
adds only taking the event from the queue (log entry 1). -/
def Obligations.StepRunsTheDecodedInstruction : Prop :=
  ∀ (s : State) (k : Option Nibble) (ins : Instr),
    s.nextEvent = .step k → s.mode = .running → s.pc.toNat % 2 = 0 → s.pc.toNat ≤ 0xFFE →
    decodeWord (wordOfBytes (s.mem.read s.pc.toNat) (s.mem.read (s.pc.toNat + 1))) = .ok ins →
    step s = exec ins s.takeEvent

/-- The instruction that `withFetchWord` places is the one the very next step runs (log entry 2). -/
def Obligations.PlacedWordIsTheOneExecuted : Prop :=
  ∀ (s : State) (w : Nat) (ins : Instr), decodeTableWord 16 w = some ins →
    step (s.withFetchWord 16 w) = exec ins (s.withFetchWord 16 w).takeEvent

/-- 20_memory.md R53, 60_exceptions.md R196: a `Step` in Running at an odd `pc`, or with no room for a word, raises
FetchFault, whatever the bytes there are, and changes nothing but `mode`. The fault is the spec's decision D5. -/
def Obligations.OddPcRaisesFetchFault : Prop :=
  ∀ (s : State) (k : Option Nibble), s.nextEvent = .step k → s.mode = .running →
    (s.pc.toNat % 2 = 1 ∨ s.pc.toNat > 0xFFE) →
    ∃ t, step s = .next t ∧ t.mode = .halted .fetchFault s.pc ∧
      s.takeEvent.onlyChanges t (fun p => p = .mode)

/-- R192: an unmapped word raises InvalidInstruction when it is fetched for execution, recording the address it was
fetched from, and the word "still in memory"; and only such a word raises it: a step of any event, from any mode, that
comes to this halt is a `Step` in Running that fetched one. -/
def Obligations.UnmappedWordRaisesInvalidInstruction : Prop :=
  (∀ (s : State) (k : Option Nibble) (w : Word) (miss : DecodeMiss),
    s.nextEvent = .step k → s.mode = .running → s.fetch = some w → decodeWord w = .error miss →
    ∃ t, step s = .next t ∧ t.mode = .halted .invalidInstruction s.pc ∧ t.wordAt s.pc.toNat = w ∧
      s.takeEvent.onlyChanges t (fun p => p = .mode)) ∧
  (∀ (s t : State) (a : Word), step s = .next t → t.mode ≠ s.mode → t.mode = .halted .invalidInstruction a →
    s.executes ∧ a = s.pc ∧ ∃ w miss, s.fetch = some w ∧ decodeWord w = .error miss)

/-- R201 and R171: in Halted a `Step` and a `Tick` change nothing at all (only the event is consumed), so the first
cause and address are kept; only `Reset` leaves it. The freezing of the timers is the spec's decision D18. -/
def Obligations.HaltedAbsorbsStepAndTick : Prop :=
  ∀ (s : State) (c : Cause) (a : Word), s.mode = .halted c a →
    ((s.nextEvent = .tick ∨ ∃ k, s.nextEvent = .step k) → step s = .next s.takeEvent) ∧
    (∀ t, step s = .next t → t.mode ≠ s.mode → ∃ program origin, s.nextEvent = .reset program origin)

/-- R169, R170: in `AwaitingKey(x)`, `Step(none)` changes nothing; a `Step` with a key writes it to `V[x]`, advances
`pc` past the `LD Vx, K` and returns to Running, changing nothing else. The mechanics are decisions D16 and D17. -/
def Obligations.KeyReportResumesTheWait : Prop :=
  ∀ (s : State) (x : Nibble), s.mode = .awaitingKey x →
    (s.nextEvent = .step none → step s = .next s.takeEvent) ∧
    (∀ key, s.nextEvent = .step (some key) →
      ∃ t, step s = .next t ∧ (t.getV x).toNat = key.toNat ∧ t.pc.toNat = (s.pc.toNat + 2) % 4096 ∧
        t.mode = .running ∧ s.takeEvent.onlyChanges t (fun p => p = .reg x ∨ p = .pc ∨ p = .mode))

/-- R178: a `Tick` in Running or AwaitingKey drops each non-zero timer by exactly one, leaves a zero timer at zero,
reports the tone's end exactly when ST reaches zero, and writes nothing else; and "a `Step` never changes a timer
except by executing Fx15 or Fx18". -/
def Obligations.TickCountsTheTimersDown : Prop :=
  (∀ s : State, s.nextEvent = .tick → (s.mode = .running ∨ ∃ x, s.mode = .awaitingKey x) →
    ∃ t, step s = .next t ∧ t.dt.toNat = s.dt.toNat - 1 ∧ t.st.toNat = s.st.toNat - 1 ∧
      t.audio = (if s.st.toNat = 1 then false :: s.audio else s.audio) ∧
      s.takeEvent.onlyChanges t (fun p => p = .dt ∨ p = .st ∨ p = .audio)) ∧
  (∀ (s t : State) (k : Option Nibble), s.nextEvent = .step k → step s = .next t →
    (t.dt ≠ s.dt → s.mode = .running ∧ ∃ x, s.fetched = some (.ldDtVx x)) ∧
    (t.st ≠ s.st → s.mode = .running ∧ ∃ x, s.fetched = some (.ldStVx x)))

/-- R221: `Reset` with a program that fits leaves every register, timer, stack entry and pixel zero, `SP` zero, Running
at `origin`, the program's bytes in memory at `origin` upward, and every other byte zero but for the font image where
the machine has one. That the display is cleared and the font preloaded are decisions D22, D15; the rest is R220. -/
def Obligations.ResetEventZeroesAndLoads : Prop :=
  ∀ (s : State) (program : List Byte) (origin : Addr),
    s.nextEvent = .reset program origin → origin.toNat + program.length ≤ 4096 →
    ∃ t, step s = .next t ∧ t.mode = .running ∧ t.pc.toNat = origin.toNat ∧ t.i = 0 ∧ t.dt = 0 ∧ t.st = 0 ∧
      t.sp = 0 ∧ (∀ r, t.getV r = 0) ∧ (∀ k : Fin 16, t.stack[k] = 0) ∧ (∀ px py, t.disp.pixel px py = false) ∧
      (∀ j : Fin program.length, t.mem.read (origin.toNat + j.val) = program[j]) ∧
      (∀ a, (a < origin.toNat ∨ origin.toNat + program.length ≤ a) →
        t.mem.read a = fontByte s.cfg a) ∧
      t.cfg = s.cfg ∧ t.pending = s.pending.tail ∧ t.audio = s.audio ∧ t.rngDraws = s.rngDraws ∧
      t.keyQueries = s.keyQueries

/-- R195, R221: a program that does not fit leaves the machine in `Halted(LoadFault, origin)` with `pc` at `origin`,
every register, timer, stack entry and pixel zero, `SP` zero, and every byte zero but for the font image where the
machine has one: "no program byte is stored" (decision D30; display D22, font D15). "and no instruction ever executes":
for as long as the host issues no further `Reset`, any number of events changes nothing (decision D18). -/
def Obligations.ProgramThatDoesNotFitNeverRuns : Prop :=
  ∀ (s : State) (program : List Byte) (origin : Addr),
    s.nextEvent = .reset program origin → origin.toNat + program.length > 4096 →
    ∃ t, step s = .next t ∧ t.mode = .halted .loadFault (origin.setWidth 16) ∧ t.pc.toNat = origin.toNat ∧
      t.i = 0 ∧ t.dt = 0 ∧ t.st = 0 ∧ t.sp = 0 ∧ (∀ r, t.getV r = 0) ∧ (∀ k : Fin 16, t.stack[k] = 0) ∧
      (∀ px py, t.disp.pixel px py = false) ∧ (∀ a, t.mem.read a = fontByte s.cfg a) ∧
      t.cfg = s.cfg ∧ t.pending = s.pending.tail ∧ t.audio = s.audio ∧ t.rngDraws = s.rngDraws ∧
      t.keyQueries = s.keyQueries ∧
      ((∀ p o, Event.reset p o ∉ t.pending) →
        ∀ n, ∃ u, Host.Core.run core n t = .next u ∧ t.onlyChanges u (fun p => p = .pending))

/-- R40: the reset state of the default configuration. The parts the spec's document does not state (stack entries,
display) are its decisions D22, D23; `pc` is the default LOAD_ORIGIN of R5. -/
def Obligations.ResetStateHasTheSpecValues : Prop :=
  (∀ r, State.reset.getV r = 0) ∧ State.reset.i = 0 ∧ State.reset.pc = 0x0200 ∧ State.reset.dt = 0 ∧
  State.reset.st = 0 ∧ State.reset.sp = 0 ∧ (∀ k : Fin 16, State.reset.stack[k] = 0) ∧
  State.reset.mode = .running ∧ (∀ a, State.reset.mem.read a = 0) ∧
  (∀ px py, State.reset.disp.pixel px py = false)

/-- The invariant of the machine holds right after reset. -/
def Obligations.InvariantHoldsAtReset : Prop := State.reset.Inv

/-- Every event keeps the invariant: `pc`, `I` and the stack entries stay within 0x000 to 0xFFF (R23, R24, R29; that
they wrap is decisions D4, D7), "depth never exceeds capacity" (R30), a halt records `pc` (R198, decision D20), and
memory keeps its canonical form inside the address space (R50; the form is the model's, log entry 7). -/
def Obligations.EveryStepKeepsTheInvariant : Prop :=
  ∀ s t : State, s.Inv → step s = .next t → t.Inv

/-- R8: "Every event of rule R9 has a defined outcome in every state", for every state of the invariant: never a
stop of the model. -/
def Obligations.EveryEventHasAnOutcome : Prop :=
  ∀ s : State, s.Inv → ∃ t, step s = .next t

/-- R32 (with decision D16): as long as the engine waits, `pc` is the address of the very `LD Vx, K` word whose `x`
was latched: from a state where that is so (every Running state is one), every event gives such a state again. -/
def Obligations.LatchedRegisterIsTheWaitingWords : Prop :=
  ∀ s t : State,
    (∀ x, s.mode = .awaitingKey x → s.fetch = some (wordI 0xF x 0x0A)) → step s = .next t →
    ∀ x, t.mode = .awaitingKey x → t.fetch = some (wordI 0xF x 0x0A)

/-- R198 (decision D21): a `Step` that raises a fault changes `mode` and nothing else: no register, no memory, no
pixel, no port call; and the recorded address is `pc` (decision D20). -/
def Obligations.FaultsArePrecise : Prop :=
  ∀ (s t : State) (c : Cause) (a : Word), s.executes → step s = .next t → t.mode = .halted c a →
    t = s.takeEvent.setMode (.halted c s.pc)

/-- R171: the transitions of `mode` are exactly these (the rows that rest on decisions D17 and D18 among them). -/
def Obligations.ModeChangesOnlyAsTheTableSays : Prop :=
  ∀ s t : State, step s = .next t → t.mode ≠ s.mode →
    (∃ program origin, s.nextEvent = .reset program origin ∧
      (t.mode = .running ∨ t.mode = .halted .loadFault (origin.setWidth 16))) ∨
    (s.executes ∧ ∃ x, s.fetched = some (.ldVxK x) ∧ t.mode = .awaitingKey x) ∨
    (s.executes ∧ ∃ c, c ≠ .loadFault ∧ t.mode = .halted c s.pc) ∨
    (∃ x key, s.mode = .awaitingKey x ∧ s.nextEvent = .step (some key) ∧ t.mode = .running)

/-- The parameters never change, and each step takes exactly one event (log entries 1 and 3, the model's own fields). -/
def Obligations.ParametersAreFixedAndEventsTakenInOrder : Prop :=
  ∀ s t : State, step s = .next t → t.cfg = s.cfg ∧ t.pending = s.pending.tail

/-- R38, the "written by" column: an instruction changes no part of the state that its row does not give it; memory is
compared byte by byte, the display pixel by pixel. -/
def Obligations.InstructionsWriteOnlyWhatTheTableGivesThem : Prop :=
  ∀ (ins : Instr) (s t : State), exec ins s = .next t → s.onlyChanges t (Instr.mayWrite ins s)

/-- R179: `set_tone_active` is called exactly when an event changes ST between zero and non-zero, once, with the new
level; `Reset` makes no call. Which events count as transitions is decision D19. -/
def Obligations.ToneIsReportedExactlyOnTransitions : Prop :=
  ∀ s t : State, step s = .next t →
    ((∃ program origin, s.nextEvent = .reset program origin) → t.audio = s.audio ∧ t.st = 0) ∧
    ((∀ program origin, s.nextEvent ≠ .reset program origin) →
      t.audio = if (s.st ≠ 0 ↔ t.st ≠ 0) then s.audio else (t.st != 0) :: s.audio)

/-- R140, R165: the randomness source is called exactly once per executed `RND` and the keypad exactly once per
executed `SKP` or `SKNP`, and at no other time. -/
def Obligations.PortsAreCalledOncePerInstruction : Prop :=
  ∀ s t : State, step s = .next t →
    (s.executes → ∀ x nn, s.fetched = some (.rnd x nn) → t.rngDraws = s.rngDraws + 1) ∧
    (t.rngDraws ≠ s.rngDraws → s.executes ∧ ∃ x nn, s.fetched = some (.rnd x nn)) ∧
    (s.executes → ∀ x, (s.fetched = some (.skp x) ∨ s.fetched = some (.sknp x)) →
      t.keyQueries = s.keyQueries + 1) ∧
    (t.keyQueries ≠ s.keyQueries → s.executes ∧ ∃ x, s.fetched = some (.skp x) ∨ s.fetched = some (.sknp x))

/-- R232 (a convention of the spec, decision D34): from the end of a run, at a fetchable `pc` (R53), every further
`Step` leaves the whole state unchanged, and a `Tick` can only lower the timers. -/
def Obligations.EndOfRunIsAFixedPoint : Prop :=
  ∀ s : State, s.atEnd → s.pc.toNat % 2 = 0 → s.pc.toNat ≤ 0xFFE →
    (∀ k, s.nextEvent = .step k → step s = .next s.takeEvent) ∧
    (s.nextEvent = .tick → ∃ t, step s = .next t ∧ t.atEnd ∧ t.dt.toNat ≤ s.dt.toNat ∧ t.st.toNat ≤ s.st.toNat ∧
      s.takeEvent.onlyChanges t (fun p => p = .dt ∨ p = .st ∨ p = .audio))

/-! ## Control transfer (40_flow.md) -/

/-- R102: `SYS nnn` "does nothing and advances". The spec's decision D9. -/
def Obligations.SysOnlyAdvances : Prop :=
  ∀ (s : State) (nnn : Addr), ∃ t, exec (.sys nnn) s = .next t ∧ t.pc.toNat = (s.pc.toNat + 2) % 4096 ∧
    s.onlyChanges t (fun p => p = .pc)

/-- R104: `JP nnn` sets the counter directly, to an odd address too. -/
def Obligations.JpSetsPc : Prop :=
  ∀ (s : State) (nnn : Addr), ∃ t, exec (.jp nnn) s = .next t ∧ t.pc.toNat = nnn.toNat ∧
    s.onlyChanges t (fun p => p = .pc)

/-- R110: `JP V0, nnn` jumps to `(nnn + V[0]) mod 4096`. Decisions D32 (offset register V0) and D4 (the wrap). -/
def Obligations.JpV0AddsV0 : Prop :=
  ∀ (s : State) (nnn : Addr), ∃ t, exec (.jpV0 nnn) s = .next t ∧
    t.pc.toNat = (nnn.toNat + (s.getV 0).toNat) % 4096 ∧ s.onlyChanges t (fun p => p = .pc)

/-- R105: with room on the stack, `CALL nnn` pushes the address of the word after the call (decision D28; it wraps,
D4), counts it in SP and jumps. -/
def Obligations.CallPushesTheReturnAddress : Prop :=
  ∀ (s : State) (nnn : Addr) (hroom : s.sp.toNat < s.capacity) (h16 : s.sp.toNat < 16),
    ∃ t, exec (.call nnn) s = .next t ∧ t.stack[s.sp.toNat].toNat = (s.pc.toNat + 2) % 4096 ∧
      t.sp.toNat = s.sp.toNat + 1 ∧ t.pc.toNat = nnn.toNat ∧
      s.onlyChanges t (fun p => p = .pc ∨ p = .sp ∨ p = .stackEntry ⟨s.sp.toNat, h16⟩)

/-- R105, R193: with the stack full, for either STACK_CAPACITY, `CALL` raises StackOverflow and pushes nothing. The
recorded address is decision D20; a SP above the capacity, which no run reaches, counts as full (log entry 9). -/
def Obligations.CallOnFullStackRaisesStackOverflow : Prop :=
  ∀ (s : State) (nnn : Addr), s.sp.toNat ≥ s.capacity →
    ∃ t, exec (.call nnn) s = .next t ∧ t.mode = .halted .stackOverflow s.pc ∧
      s.onlyChanges t (fun p => p = .mode)

/-- R103: with a live return address, `RET` loads it "as it stands" and lowers SP; the popped slot keeps its value
(R30, decision D23). -/
def Obligations.RetPopsTheReturnAddress : Prop :=
  ∀ (s : State) (hlive : 0 < s.sp.toNat) (hcap : s.sp.toNat ≤ s.capacity) (h16 : s.sp.toNat - 1 < 16),
    ∃ t, exec .ret s = .next t ∧ t.pc = s.stack[s.sp.toNat - 1] ∧ t.sp.toNat = s.sp.toNat - 1 ∧
      s.onlyChanges t (fun p => p = .pc ∨ p = .sp)

/-- R103, R194: `RET` on an empty stack raises StackUnderflow and changes nothing else (recorded address: decision
D20). With SP above the capacity, which no run reaches, the model stops by name (the model's choice, log entry 9). -/
def Obligations.RetOnEmptyStackRaisesStackUnderflow : Prop :=
  (∀ s : State, s.sp = 0 → ∃ t, exec .ret s = .next t ∧ t.mode = .halted .stackUnderflow s.pc ∧
    s.onlyChanges t (fun p => p = .mode)) ∧
  (∀ s : State, s.sp.toNat > s.capacity → exec .ret s = .fault .noStackEntry)

/-- R101: a conditional skip writes `pc` once, 4 on in all or 2 on; "the two must not be applied cumulatively"; and
the skipped word "is not fetched, not decoded and not checked": other memory contents change nothing. -/
def Obligations.SkipsAreNotCumulative : Prop :=
  ∀ (ins : Instr) (s : State),
    ((∃ x nn, ins = .seImm x nn ∨ ins = .sneImm x nn) ∨ (∃ x y, ins = .seReg x y ∨ ins = .sneReg x y) ∨
      ∃ x, ins = .skp x ∨ ins = .sknp x) →
    ∃ t, exec ins s = .next t ∧
      (t.pc.toNat = (s.pc.toNat + 4) % 4096 ∨ t.pc.toNat = (s.pc.toNat + 2) % 4096) ∧ t.mode = s.mode ∧
      ∀ m : Memory, exec ins (s.setMem m) = .next (t.setMem m)

/-- R106, R107: the skips on an immediate. The conditions are the conventional ones (general knowledge, G4). -/
def Obligations.ImmediateSkips : Prop :=
  ∀ (s : State) (x : Nibble) (nn : Byte),
    (∃ t, exec (.seImm x nn) s = .next t ∧
      t.pc.toNat = (s.pc.toNat + if (s.getV x).toNat = nn.toNat then 4 else 2) % 4096 ∧
      s.onlyChanges t (fun p => p = .pc)) ∧
    (∃ t, exec (.sneImm x nn) s = .next t ∧
      t.pc.toNat = (s.pc.toNat + if (s.getV x).toNat = nn.toNat then 2 else 4) % 4096 ∧
      s.onlyChanges t (fun p => p = .pc))

/-- R108, R109: the skips on two registers. The conditions are the conventional ones (general knowledge, G4). -/
def Obligations.RegisterSkips : Prop :=
  ∀ (s : State) (x y : Nibble),
    (∃ t, exec (.seReg x y) s = .next t ∧
      t.pc.toNat = (s.pc.toNat + if (s.getV x).toNat = (s.getV y).toNat then 4 else 2) % 4096 ∧
      s.onlyChanges t (fun p => p = .pc)) ∧
    (∃ t, exec (.sneReg x y) s = .next t ∧
      t.pc.toNat = (s.pc.toNat + if (s.getV x).toNat = (s.getV y).toNat then 2 else 4) % 4096 ∧
      s.onlyChanges t (fun p => p = .pc))

/-! ## The ALU (41_alu.md) -/

/-- R121: `LD Vx, nn`; VF is unchanged unless it is the destination. -/
def Obligations.LdImmLoads : Prop :=
  ∀ (s : State) (x : Nibble) (nn : Byte), ∃ t, exec (.ldImm x nn) s = .next t ∧ t.getV x = nn ∧
    t.pc.toNat = (s.pc.toNat + 2) % 4096 ∧ s.onlyChanges t (fun p => p = .pc ∨ p = .reg x)

/-- R122: `ADD Vx, nn` wraps modulo 256 and writes no flag (decision D11). -/
def Obligations.AddImmWrapsWithoutFlag : Prop :=
  ∀ (s : State) (x : Nibble) (nn : Byte), ∃ t, exec (.addImm x nn) s = .next t ∧
    (t.getV x).toNat = ((s.getV x).toNat + nn.toNat) % 256 ∧
    t.pc.toNat = (s.pc.toNat + 2) % 4096 ∧ s.onlyChanges t (fun p => p = .pc ∨ p = .reg x)

/-- R123: `LD Vx, Vy` copies; no flag. -/
def Obligations.LdRegCopies : Prop :=
  ∀ (s : State) (x y : Nibble), ∃ t, exec (.ldReg x y) s = .next t ∧ t.getV x = s.getV y ∧
    t.pc.toNat = (s.pc.toNat + 2) % 4096 ∧ s.onlyChanges t (fun p => p = .pc ∨ p = .reg x)

/-- R124, R125, R126: `OR`, `AND`, `XOR` bit by bit, and no flag written (decision D11). -/
def Obligations.LogicalOperationsBitwise : Prop :=
  ∀ (s : State) (x y : Nibble),
    (∃ t, exec (.orReg x y) s = .next t ∧
      (∀ b, (t.getV x).getLsbD b = ((s.getV x).getLsbD b || (s.getV y).getLsbD b)) ∧
      t.pc.toNat = (s.pc.toNat + 2) % 4096 ∧ s.onlyChanges t (fun p => p = .pc ∨ p = .reg x)) ∧
    (∃ t, exec (.andReg x y) s = .next t ∧
      (∀ b, (t.getV x).getLsbD b = ((s.getV x).getLsbD b && (s.getV y).getLsbD b)) ∧
      t.pc.toNat = (s.pc.toNat + 2) % 4096 ∧ s.onlyChanges t (fun p => p = .pc ∨ p = .reg x)) ∧
    (∃ t, exec (.xorReg x y) s = .next t ∧
      (∀ b, (t.getV x).getLsbD b = ((s.getV x).getLsbD b ^^ (s.getV y).getLsbD b)) ∧
      t.pc.toNat = (s.pc.toNat + 2) % 4096 ∧ s.onlyChanges t (fun p => p = .pc ∨ p = .reg x))

/-- R127: `ADD Vx, Vy`: the sum modulo 256, VF the carry; with `x = 15` VF ends as the flag (R120, decision D10). -/
def Obligations.AddRegWritesSumAndCarry : Prop :=
  ∀ (s : State) (x y : Nibble), ∃ t, exec (.addReg x y) s = .next t ∧
    (x ≠ vf → (t.getV x).toNat = ((s.getV x).toNat + (s.getV y).toNat) % 256) ∧
    (t.getV vf).toNat = (if (s.getV x).toNat + (s.getV y).toNat > 255 then 1 else 0) ∧
    t.pc.toNat = (s.pc.toNat + 2) % 4096 ∧ s.onlyChanges t (fun p => p = .pc ∨ p = .reg x ∨ p = .reg vf)

/-- R128: `SUB Vx, Vy`: the difference modulo 256, VF is NOT borrow; with `x = 15` VF ends as the flag (decision D10). -/
def Obligations.SubWritesDifferenceAndNotBorrow : Prop :=
  ∀ (s : State) (x y : Nibble), ∃ t, exec (.sub x y) s = .next t ∧
    (x ≠ vf → ((t.getV x).toNat : Int) = ((s.getV x).toNat - (s.getV y).toNat : Int) % 256) ∧
    (t.getV vf).toNat = (if (s.getV x).toNat ≥ (s.getV y).toNat then 1 else 0) ∧
    t.pc.toNat = (s.pc.toNat + 2) % 4096 ∧ s.onlyChanges t (fun p => p = .pc ∨ p = .reg x ∨ p = .reg vf)

/-- R130: `SUBN Vx, Vy`: `Vy - Vx`, still written to `V[x]`; with `x = 15` VF ends as the flag (decision D10). -/
def Obligations.SubnWritesReverseDifference : Prop :=
  ∀ (s : State) (x y : Nibble), ∃ t, exec (.subn x y) s = .next t ∧
    (x ≠ vf → ((t.getV x).toNat : Int) = ((s.getV y).toNat - (s.getV x).toNat : Int) % 256) ∧
    (t.getV vf).toNat = (if (s.getV y).toNat ≥ (s.getV x).toNat then 1 else 0) ∧
    t.pc.toNat = (s.pc.toNat + 2) % 4096 ∧ s.onlyChanges t (fun p => p = .pc ∨ p = .reg x ∨ p = .reg vf)

/-- R129: `SHR Vx` halves `V[x]`, VF the old bit 0, whatever `V[y]` holds; with `x = 15` VF ends as the flag (D10). -/
def Obligations.ShrHalvesAndShiftsOutBit0 : Prop :=
  ∀ (s : State) (x y : Nibble), ∃ t, exec (.shr x y) s = .next t ∧
    (x ≠ vf → (t.getV x).toNat = (s.getV x).toNat / 2) ∧
    (t.getV vf).toNat = (s.getV x).toNat % 2 ∧
    t.pc.toNat = (s.pc.toNat + 2) % 4096 ∧ s.onlyChanges t (fun p => p = .pc ∨ p = .reg x ∨ p = .reg vf)

/-- R131: `SHL Vx` doubles `V[x]` modulo 256, VF the old bit 7; with `x = 15` VF ends as the flag (D10). -/
def Obligations.ShlDoublesAndShiftsOutBit7 : Prop :=
  ∀ (s : State) (x y : Nibble), ∃ t, exec (.shl x y) s = .next t ∧
    (x ≠ vf → (t.getV x).toNat = 2 * (s.getV x).toNat % 256) ∧
    (t.getV vf).toNat = (s.getV x).toNat / 128 ∧
    t.pc.toNat = (s.pc.toNat + 2) % 4096 ∧ s.onlyChanges t (fun p => p = .pc ∨ p = .reg x ∨ p = .reg vf)

/-! ## Random (42_random.md) -/

/-- R141: `RND Vx, nn` stores the drawn byte ANDed with `nn`; the byte is a free value (log entry 4), so the claim
holds for every draw, and every bit that is 0 in `nn` is 0 in the result. -/
def Obligations.RndMasksTheDrawnByte : Prop :=
  ∀ (s : State) (x : Nibble) (nn : Byte), ∃ t, exec (.rnd x nn) s = .next t ∧
    (∀ b, (t.getV x).getLsbD b = ((Config.freeRandomByte s.rngDraws).getLsbD b && nn.getLsbD b)) ∧
    (∀ b, nn.getLsbD b = false → (t.getV x).getLsbD b = false) ∧
    t.rngDraws = s.rngDraws + 1 ∧ t.pc.toNat = (s.pc.toNat + 2) % 4096 ∧
    s.onlyChanges t (fun p => p = .pc ∨ p = .reg x ∨ p = .rngDraws)

/-! ## Display (43_display.md) -/

/-- R146: `CLS` is the word 00E0; it clears every pixel and changes nothing else but `pc`; VF is unchanged. -/
def Obligations.ClsClearsEveryPixel : Prop :=
  decodeWord 0x00E0 = .ok .cls ∧
  ∀ s : State, ∃ t, exec .cls s = .next t ∧ (∀ px py, t.disp.pixel px py = false) ∧
    t.pc.toNat = (s.pc.toNat + 2) % 4096 ∧
    s.onlyChanges t (fun p => p = .pc ∨ ∃ px py, p = .pixel px py)

/-- R147, R148: with its rows in range (or `n = 0`), `DRW` flips exactly the pixels under a set sprite bit, with both
coordinates wrapped, and changes only those, VF and `pc`; `I` is unchanged (decision D8), bit 7 is column 0 (D12), and
`V[x]`, `V[y]` are read before VF is written (D13). -/
def Obligations.DrwFlipsExactlyTheCoveredPixels : Prop :=
  ∀ (s : State) (x y n : Nibble), (n = 0 ∨ s.i.toNat + n.toNat ≤ 4096) →
    ∃ t, exec (.drw x y n) s = .next t ∧
      (∀ px py, s.spriteCovers (s.getV x) (s.getV y) n px py → t.disp.pixel px py = !s.disp.pixel px py) ∧
      t.pc.toNat = (s.pc.toNat + 2) % 4096 ∧
      s.onlyChanges t (fun p => p = .pc ∨ p = .reg vf ∨
        ∃ px py, p = .pixel px py ∧ s.spriteCovers (s.getV x) (s.getV y) n px py)

/-- R149: the collision bit of one `DRW` is 1 exactly when some set sprite bit landed on a pixel that was set before
the `DRW` began, and 0 otherwise, "computed across the whole sprite"; no set bit, or height 0, gives 0. -/
def Obligations.CollisionIsAPixelTurnedOff : Prop :=
  ∀ (s t : State) (x y n : Nibble), (n = 0 ∨ s.i.toNat + n.toNat ≤ 4096) → exec (.drw x y n) s = .next t →
    ((∃ px py, s.spriteCovers (s.getV x) (s.getV y) n px py ∧ s.disp.pixel px py = true) → t.getV vf = 1) ∧
    ((∀ px py, s.spriteCovers (s.getV x) (s.getV y) n px py → s.disp.pixel px py = false) → t.getV vf = 0)

/-! ## The address register and memory (44_memory_ops.md) -/

/-- R155: `LD I, nnn` is the word Annn; it sets `I` to `nnn`, any of 0x000 to 0xFFF, and changes nothing else but
`pc`. -/
def Obligations.LdISetsTheAddressRegister : Prop :=
  (∀ nnn : Addr, decodeWord (wordA 0xA nnn) = .ok (.ldI nnn)) ∧
  ∀ (s : State) (nnn : Addr), ∃ t, exec (.ldI nnn) s = .next t ∧ t.i.toNat = nnn.toNat ∧
    t.pc.toNat = (s.pc.toNat + 2) % 4096 ∧ s.onlyChanges t (fun p => p = .pc ∨ p = .i)

/-- R156: `ADD I, Vx` wraps modulo 4096 and writes no flag (decision D7; the operation is general knowledge, G7). -/
def Obligations.AddIWrapsWithoutFlag : Prop :=
  ∀ (s : State) (x : Nibble), ∃ t, exec (.addI x) s = .next t ∧
    t.i.toNat = (s.i.toNat + (s.getV x).toNat) % 4096 ∧
    t.pc.toNat = (s.pc.toNat + 2) % 4096 ∧ s.onlyChanges t (fun p => p = .pc ∨ p = .i)

/-- R157: `LD F, Vx` points `I` at the glyph of the low nibble of `V[x]`, for every FONT_BASE (decisions D14, D15; the
operation is general knowledge, G12). -/
def Obligations.LdFPointsAtTheGlyph : Prop :=
  ∀ (s : State) (x : Nibble), ∃ t, exec (.ldF x) s = .next t ∧
    t.i.toNat = (s.cfg.fontBase.toNat + 5 * ((s.getV x).toNat % 16)) % 4096 ∧
    t.pc.toNat = (s.pc.toNat + 2) % 4096 ∧ s.onlyChanges t (fun p => p = .pc ∨ p = .i)

/-- R158, R161: with `I + 2` in range, `LD B, Vx` stores the three decimal digits of `V[x]`, and no other byte changes;
`I` is unchanged (decision D8). -/
def Obligations.LdBStoresDecimalDigits : Prop :=
  ∀ (s : State) (x : Nibble), s.i.toNat + 2 ≤ 0xFFF →
    ∃ t h d o, exec (.ldB x) s = .next t ∧
      t.mem.read s.i.toNat = BitVec.ofNat 8 h ∧ t.mem.read (s.i.toNat + 1) = BitVec.ofNat 8 d ∧
      t.mem.read (s.i.toNat + 2) = BitVec.ofNat 8 o ∧
      (s.getV x).toNat = 100 * h + 10 * d + o ∧ h ≤ 2 ∧ d ≤ 9 ∧ o ≤ 9 ∧
      t.pc.toNat = (s.pc.toNat + 2) % 4096 ∧
      s.onlyChanges t (fun p => p = .pc ∨ ∃ a, p = .memByte a ∧ s.i.toNat ≤ a ∧ a ≤ s.i.toNat + 2)

/-- R159: with `I + x` in range, `LD [I], Vx` stores `V[0]` to `V[x]` ascending from `I`, and no other byte changes;
`I` is unchanged (decision D8). -/
def Obligations.DumpStoresRegisters : Prop :=
  ∀ (s : State) (x : Nibble), s.i.toNat + x.toNat ≤ 0xFFF →
    ∃ t, exec (.dumpRegs x) s = .next t ∧
      (∀ k : Nibble, k.toNat ≤ x.toNat → t.mem.read (s.i.toNat + k.toNat) = s.getV k) ∧
      t.pc.toNat = (s.pc.toNat + 2) % 4096 ∧
      s.onlyChanges t (fun p => p = .pc ∨ ∃ a, p = .memByte a ∧ s.i.toNat ≤ a ∧ a ≤ s.i.toNat + x.toNat)

/-- R160: with `I + x` in range, `LD Vx, [I]` loads `V[0]` to `V[x]` from the bytes at `I`; registers above `x`, all
of memory and `I` are unchanged (decision D8). -/
def Obligations.RestoreLoadsRegisters : Prop :=
  ∀ (s : State) (x : Nibble), s.i.toNat + x.toNat ≤ 0xFFF →
    ∃ t, exec (.restoreRegs x) s = .next t ∧
      (∀ k : Nibble, k.toNat ≤ x.toNat → t.getV k = s.mem.read (s.i.toNat + k.toNat)) ∧
      t.pc.toNat = (s.pc.toNat + 2) % 4096 ∧
      s.onlyChanges t (fun p => p = .pc ∨ ∃ k : Nibble, p = .reg k ∧ k.toNat ≤ x.toNat)

/-- R55, R197: where the highest byte of the access would pass 0xFFF, each of the four instructions that access
memory through `I` raises DataAddressFault with nothing read, written or drawn. The fault is decision D6. -/
def Obligations.AccessPastTheTopRaisesDataAddressFault : Prop :=
  ∀ (ins : Instr) (s : State),
    ((∃ x y n, ins = .drw x y n ∧ n ≠ 0 ∧ s.i.toNat + n.toNat - 1 > 0xFFF) ∨
      (∃ x, ins = .ldB x ∧ s.i.toNat + 2 > 0xFFF) ∨
      ∃ x : Nibble, (ins = .dumpRegs x ∨ ins = .restoreRegs x) ∧ s.i.toNat + x.toNat > 0xFFF) →
    ∃ t, exec ins s = .next t ∧ t.mode = .halted .dataAddressFault s.pc ∧ s.onlyChanges t (fun p => p = .mode)

/-! ## Keypad (45_keypad.md) and timers (46_timers.md) -/

/-- R166, R167: one query about the key in the low nibble of `V[x]` (decision D14); `SKP` skips when it is pressed,
`SKNP` when it is not. The answer is a free value (log entry 5): the claim holds for either. -/
def Obligations.KeySkipsFollowTheAnswer : Prop :=
  ∀ (s : State) (x key : Nibble), key.toNat = (s.getV x).toNat % 16 →
    (∃ t, exec (.skp x) s = .next t ∧
      t.pc.toNat = (s.pc.toNat + if Config.freeKeyPressed s.keyQueries key then 4 else 2) % 4096 ∧
      t.keyQueries = s.keyQueries + 1 ∧ s.onlyChanges t (fun p => p = .pc ∨ p = .keyQueries)) ∧
    (∃ t, exec (.sknp x) s = .next t ∧
      t.pc.toNat = (s.pc.toNat + if Config.freeKeyPressed s.keyQueries key then 2 else 4) % 4096 ∧
      t.keyQueries = s.keyQueries + 1 ∧ s.onlyChanges t (fun p => p = .pc ∨ p = .keyQueries))

/-- R168: `LD Vx, K` enters `AwaitingKey(x)` and changes nothing else: `pc` keeps its address (decision D16). -/
def Obligations.KeyWaitEntryChangesOnlyMode : Prop :=
  ∀ (s : State) (x : Nibble), ∃ t, exec (.ldVxK x) s = .next t ∧ t.mode = .awaitingKey x ∧
    s.onlyChanges t (fun p => p = .mode)

/-- R175, R176: reading and setting the delay timer (the instructions are general knowledge, G7). -/
def Obligations.DelayTimerReadAndSet : Prop :=
  ∀ (s : State) (x : Nibble),
    (∃ t, exec (.ldVxDt x) s = .next t ∧ t.getV x = s.dt ∧ t.pc.toNat = (s.pc.toNat + 2) % 4096 ∧
      s.onlyChanges t (fun p => p = .pc ∨ p = .reg x)) ∧
    (∃ t, exec (.ldDtVx x) s = .next t ∧ t.dt = s.getV x ∧ t.pc.toNat = (s.pc.toNat + 2) % 4096 ∧
      s.onlyChanges t (fun p => p = .pc ∨ p = .dt))

/-- R177: `LD ST, Vx` sets the sound timer and reports the tone, once, exactly when its level changes (the
instruction is general knowledge, G7; the report is decision D19). -/
def Obligations.SoundTimerSetReportsTheTone : Prop :=
  ∀ (s : State) (x : Nibble), ∃ t, exec (.ldStVx x) s = .next t ∧ t.st = s.getV x ∧
    (s.st = 0 → s.getV x ≠ 0 → t.audio = true :: s.audio) ∧
    (s.st ≠ 0 → s.getV x = 0 → t.audio = false :: s.audio) ∧
    ((s.st = 0 ↔ s.getV x = 0) → t.audio = s.audio) ∧
    t.pc.toNat = (s.pc.toNat + 2) % 4096 ∧ s.onlyChanges t (fun p => p = .pc ∨ p = .st ∨ p = .audio)
end

