-- ==== Sys2Proof/Laws/Decode.lean ====
section
/-! SUPPORT. What the decoder's field functions read from a word that the encoder's formats built, that a word is
built from its fields, and the inversion of the decoder. -/

namespace Sys2Proof

/-! ## Slices of a concatenation -/

theorem extract_append_high {m n : Nat} (a : BitVec m) (b : BitVec n) (k l : Nat) :
    (a ++ b).extractLsb' (n + k) l = a.extractLsb' k l := by
  ext i hi
  have h : ¬ n + k + i < n := by omega
  have e : n + k + i - n = k + i := by omega
  simp [BitVec.getElem_extractLsb', BitVec.getLsbD_append, h, e]

theorem extract_append_low {m n : Nat} (a : BitVec m) (b : BitVec n) (k l : Nat) (h : k + l ≤ n) :
    (a ++ b).extractLsb' k l = b.extractLsb' k l := by
  ext i hi
  have h' : k + i < n := by omega
  simp [BitVec.getElem_extractLsb', BitVec.getLsbD_append, h']

theorem extract_all {m : Nat} (a : BitVec m) : a.extractLsb' 0 m = a := by
  ext i hi
  simp

/-! ## The fields of a built word -/

@[simp] theorem opField_wordA (op : Nibble) (a : Addr) : opField (wordA op a) = op :=
  (extract_append_high op a 0 4).trans (extract_all op)
@[simp] theorem nnnField_wordA (op : Nibble) (a : Addr) : nnnField (wordA op a) = a :=
  (extract_append_low op a 0 12 (by decide)).trans (extract_all a)

@[simp] theorem opField_wordI (op x : Nibble) (b : Byte) : opField (wordI op x b) = op :=
  (extract_append_high (op ++ x) b 4 4).trans ((extract_append_high op x 0 4).trans (extract_all op))
@[simp] theorem xField_wordI (op x : Nibble) (b : Byte) : xField (wordI op x b) = x :=
  (extract_append_high (op ++ x) b 0 4).trans
    ((extract_append_low op x 0 4 (by decide)).trans (extract_all x))
@[simp] theorem nnField_wordI (op x : Nibble) (b : Byte) : nnField (wordI op x b) = b :=
  (extract_append_low (op ++ x) b 0 8 (by decide)).trans (extract_all b)

@[simp] theorem opField_wordR (op x y n : Nibble) : opField (wordR op x y n) = op :=
  (extract_append_high (op ++ x ++ y) n 8 4).trans
    ((extract_append_high (op ++ x) y 4 4).trans ((extract_append_high op x 0 4).trans (extract_all op)))
@[simp] theorem xField_wordR (op x y n : Nibble) : xField (wordR op x y n) = x :=
  (extract_append_high (op ++ x ++ y) n 4 4).trans
    ((extract_append_high (op ++ x) y 0 4).trans
      ((extract_append_low op x 0 4 (by decide)).trans (extract_all x)))
@[simp] theorem yField_wordR (op x y n : Nibble) : yField (wordR op x y n) = y :=
  (extract_append_high (op ++ x ++ y) n 0 4).trans
    ((extract_append_low (op ++ x) y 0 4 (by decide)).trans (extract_all y))
@[simp] theorem nField_wordR (op x y n : Nibble) : nField (wordR op x y n) = n :=
  (extract_append_low (op ++ x ++ y) n 0 4 (by decide)).trans (extract_all n)

/-! ## A word is built from its fields -/

theorem append_extract {m n : Nat} (w : BitVec (m + n)) : w.extractLsb' n m ++ w.extractLsb' 0 n = w := by
  ext i hi
  simp only [BitVec.getElem_append, BitVec.getElem_extractLsb']
  split
  · simp
    exact BitVec.getLsbD_eq_getElem (by omega)
  · rw [show n + (i - n) = i by omega]
    exact BitVec.getLsbD_eq_getElem (by omega)

theorem extract_extract {m : Nat} (w : BitVec m) (a b k l : Nat) (h : k + l ≤ b) :
    (w.extractLsb' a b).extractLsb' k l = w.extractLsb' (a + k) l := by
  ext i hi
  simp only [BitVec.getElem_extractLsb', BitVec.getLsbD_extractLsb']
  rw [show decide (k + i < b) = true by simp; omega, Bool.true_and]
  congr 1
  omega

theorem wordA_fields (w : Word) : wordA (opField w) (nnnField w) = w :=
  append_extract (m := 4) (n := 12) w

theorem opx_fields (w : Word) : opField w ++ xField w = w.extractLsb' 8 8 := by
  have := append_extract (m := 4) (n := 4) (w.extractLsb' 8 8)
  rwa [extract_extract _ _ _ _ _ (by decide), extract_extract _ _ _ _ _ (by decide)] at this

theorem opxy_fields (w : Word) : opField w ++ xField w ++ yField w = w.extractLsb' 4 12 := by
  have := append_extract (m := 8) (n := 4) (w.extractLsb' 4 12)
  rw [extract_extract _ _ _ _ _ (by decide), extract_extract _ _ _ _ _ (by decide)] at this
  rw [opx_fields]
  exact this

theorem wordI_fields (w : Word) : wordI (opField w) (xField w) (nnField w) = w := by
  unfold wordI
  rw [opx_fields]
  exact append_extract (m := 8) (n := 8) w

theorem wordR_fields (w : Word) : wordR (opField w) (xField w) (yField w) (nField w) = w := by
  unfold wordR
  rw [opxy_fields]
  exact append_extract (m := 12) (n := 4) w

@[simp] theorem wordOfBytes_split (w : Word) : wordOfBytes (byte1Of w) (byte2Of w) = w :=
  append_extract (m := 8) (n := 8) w

/-! ## The decoder group by group -/

theorem nibble_cases (n : Nibble) : n = 0x0 ∨ n = 0x1 ∨ n = 0x2 ∨ n = 0x3 ∨ n = 0x4 ∨ n = 0x5 ∨ n = 0x6 ∨ n = 0x7 ∨
    n = 0x8 ∨ n = 0x9 ∨ n = 0xA ∨ n = 0xB ∨ n = 0xC ∨ n = 0xD ∨ n = 0xE ∨ n = 0xF := by
  revert n; decide

variable {w : Word}

theorem decodeWord_group0 (h : opField w = 0x0) :
    decodeWord w = .ok (decodeGroup0 w) := by
  unfold decodeWord; rw [h]; rfl
theorem decodeWord_group1 (h : opField w = 0x1) :
    decodeWord w = .ok (.jp (nnnField w)) := by
  unfold decodeWord; rw [h]; rfl
theorem decodeWord_group2 (h : opField w = 0x2) :
    decodeWord w = .ok (.call (nnnField w)) := by
  unfold decodeWord; rw [h]; rfl
theorem decodeWord_group3 (h : opField w = 0x3) :
    decodeWord w = .ok (.seImm (xField w) (nnField w)) := by
  unfold decodeWord; rw [h]; rfl
theorem decodeWord_group4 (h : opField w = 0x4) :
    decodeWord w = .ok (.sneImm (xField w) (nnField w)) := by
  unfold decodeWord; rw [h]; rfl
theorem decodeWord_group5 (h : opField w = 0x5) :
    decodeWord w = if nField w = 0 then .ok (.seReg (xField w) (yField w)) else .error .group5NonzeroNibble := by
  unfold decodeWord; rw [h]; rfl
theorem decodeWord_group6 (h : opField w = 0x6) :
    decodeWord w = .ok (.ldImm (xField w) (nnField w)) := by
  unfold decodeWord; rw [h]; rfl
theorem decodeWord_group7 (h : opField w = 0x7) :
    decodeWord w = .ok (.addImm (xField w) (nnField w)) := by
  unfold decodeWord; rw [h]; rfl
theorem decodeWord_group8 (h : opField w = 0x8) :
    decodeWord w = decodeGroup8 w := by
  unfold decodeWord; rw [h]; rfl
theorem decodeWord_group9 (h : opField w = 0x9) :
    decodeWord w = if nField w = 0 then .ok (.sneReg (xField w) (yField w)) else .error .group9NonzeroNibble := by
  unfold decodeWord; rw [h]; rfl
theorem decodeWord_groupA (h : opField w = 0xA) :
    decodeWord w = .ok (.ldI (nnnField w)) := by
  unfold decodeWord; rw [h]; rfl
theorem decodeWord_groupB (h : opField w = 0xB) :
    decodeWord w = .ok (.jpV0 (nnnField w)) := by
  unfold decodeWord; rw [h]; rfl
theorem decodeWord_groupC (h : opField w = 0xC) :
    decodeWord w = .ok (.rnd (xField w) (nnField w)) := by
  unfold decodeWord; rw [h]; rfl
theorem decodeWord_groupD (h : opField w = 0xD) :
    decodeWord w = .ok (.drw (xField w) (yField w) (nField w)) := by
  unfold decodeWord; rw [h]; rfl
theorem decodeWord_groupE (h : opField w = 0xE) :
    decodeWord w = decodeGroupE w := by
  unfold decodeWord; rw [h]; rfl
theorem decodeWord_groupF (h : opField w = 0xF) :
    decodeWord w = decodeGroupF w := by
  unfold decodeWord; rw [h]; rfl

end Sys2Proof
end

