-- ==== Sys2Proof/Laws/Memory.lean ====
section
/-! SUPPORT. The laws of memory: a read after a write, the bytes a run of stores leaves, and that every memory
operation keeps the canonical form. The first two hold of every list, canonical or not. -/

namespace Sys2Proof.Machine

theorem Memory.read_nil (a : Nat) : Memory.read [] a = unlistedByte := rfl

theorem Memory.read_filter_self (m : Memory) (a : Nat) :
    Memory.read (m.filter (fun c => c.1 != a)) a = unlistedByte := by
  induction m with
  | nil => rfl
  | cons c m ih =>
    by_cases h : c.1 = a
    · simp [List.filter, h, ih]
    · have hb : (c.1 != a) = true := by simpa using h
      simp [List.filter, hb, Memory.read, h, ih]

theorem Memory.read_filter_of_ne (m : Memory) {a b : Nat} (h : b ≠ a) :
    Memory.read (m.filter (fun c => c.1 != a)) b = m.read b := by
  induction m with
  | nil => rfl
  | cons c m ih =>
    by_cases hc : c.1 = a
    · have : c.1 ≠ b := by omega
      simp [List.filter, hc, Memory.read, ih]
      omega
    · have hb : (c.1 != a) = true := by simpa using hc
      simp [List.filter, hb, Memory.read, ih]

theorem Memory.read_insertCell_self (m : Memory) (a : Nat) (x : Byte) (h : ∀ c ∈ m, c.1 ≠ a) :
    (Memory.insertCell a x m).read a = x := by
  induction m with
  | nil => simp [Memory.insertCell, Memory.read]
  | cons c m ih =>
    have hc := h c (by simp)
    unfold Memory.insertCell
    split
    · simp [Memory.read]
    · simp [Memory.read, hc, ih (fun d hd => h d (by simp [hd]))]

theorem Memory.read_insertCell_of_ne (m : Memory) {a b : Nat} (x : Byte) (h : b ≠ a) :
    (Memory.insertCell a x m).read b = m.read b := by
  have h' : a ≠ b := fun e => h e.symm
  induction m with
  | nil => simp [Memory.insertCell, Memory.read, h']
  | cons c m ih =>
    unfold Memory.insertCell
    split
    · simp [Memory.read, h']
    · simp [Memory.read, ih]

/-- A read after a write (20_memory.md R57): the byte written there, every other byte as before. -/
theorem Memory.read_write (m : Memory) (a b : Nat) (x : Byte) :
    (m.write a x).read b = if b = a then x else m.read b := by
  unfold Memory.write
  by_cases hx : x = unlistedByte
  · by_cases hb : b = a
    · simp [hx, hb, Memory.read_filter_self]
    · simp [hx, hb, Memory.read_filter_of_ne m hb]
  · by_cases hb : b = a
    · subst hb
      simp only [if_neg hx, if_true]
      exact Memory.read_insertCell_self _ _ _ (fun c hc => by simpa using (List.mem_filter.mp hc).2)
    · simp [hx, hb, Memory.read_insertCell_of_ne _ _ hb, Memory.read_filter_of_ne m hb]

@[simp] theorem Memory.read_write_self (m : Memory) (a : Nat) (x : Byte) : (m.write a x).read a = x := by
  simp [Memory.read_write]

theorem Memory.read_write_of_ne (m : Memory) {a b : Nat} (x : Byte) (h : b ≠ a) :
    (m.write a x).read b = m.read b := by
  simp [Memory.read_write, h]

/-- What a run of ascending byte stores leaves (R54): the stored bytes where they lie, the rest as before. -/
theorem Memory.read_writeBytes (m : Memory) (a b : Nat) (xs : List Byte) :
    (m.writeBytes a xs).read b = if a ≤ b then (xs[b - a]?).getD (m.read b) else m.read b := by
  induction xs generalizing m a with
  | nil => simp [Memory.writeBytes]
  | cons x xs ih =>
    simp only [Memory.writeBytes, ih, Memory.read_write]
    rcases Nat.lt_trichotomy b a with h | h | h
    · have h1 : ¬ a + 1 ≤ b := by omega
      have h2 : ¬ a ≤ b := by omega
      have h3 : b ≠ a := by omega
      simp [h1, h2, h3]
    · subst h
      simp
    · have h1 : a + 1 ≤ b := by omega
      have h2 : a ≤ b := by omega
      have h3 : b ≠ a := by omega
      obtain ⟨k, hk⟩ : ∃ k, b - a = k + 1 := ⟨b - a - 1, by omega⟩
      have hk' : b - (a + 1) = k := by omega
      simp [h1, h2, h3, hk, hk']

theorem Memory.read_writeBytes_outside (m : Memory) {a b : Nat} (xs : List Byte)
    (h : b < a ∨ a + xs.length ≤ b) : (m.writeBytes a xs).read b = m.read b := by
  rw [Memory.read_writeBytes]
  rcases h with h | h
  · rw [if_neg (by omega)]
  · rw [if_pos (by omega), List.getElem?_eq_none (by omega)]
    rfl

theorem Memory.read_writeBytes_inside (m : Memory) (a k : Nat) (xs : List Byte) (h : k < xs.length) :
    (m.writeBytes a xs).read (a + k) = xs[k] := by
  rw [Memory.read_writeBytes, if_pos (by omega), Nat.add_sub_cancel_left, List.getElem?_eq_getElem h]
  rfl

/-! ## The canonical form -/

theorem Memory.rising_iff (m : Memory) : m.rising = true ↔ m.Pairwise (fun c d => c.1 < d.1) := by
  induction m with
  | nil => simp [Memory.rising]
  | cons c m ih =>
    cases m with
    | nil => simp [Memory.rising]
    | cons d m =>
      simp only [Memory.rising, Bool.and_eq_true, decide_eq_true_eq, ih, List.pairwise_cons]
      constructor
      · rintro ⟨hcd, hd, hm⟩
        refine ⟨fun e he => ?_, hd, hm⟩
        rcases List.mem_cons.mp he with rfl | he
        · exact hcd
        · exact Nat.lt_trans hcd (hd e he)
      · rintro ⟨hc, hd, hm⟩
        exact ⟨hc d (by simp), hd, hm⟩

theorem Memory.wf_iff (m : Memory) : m.wf = true ↔
    m.Pairwise (fun c d => c.1 < d.1) ∧ ∀ c ∈ m, c.1 < memSize ∧ c.2 ≠ unlistedByte := by
  simp [Memory.wf, Memory.rising_iff]

theorem Memory.mem_insertCell {m : Memory} {a : Nat} {x : Byte} {c : Host.Cell} :
    c ∈ Memory.insertCell a x m ↔ c = (a, x) ∨ c ∈ m := by
  induction m with
  | nil => simp [Memory.insertCell]
  | cons d m ih =>
    unfold Memory.insertCell
    split
    · simp
    · simp only [List.mem_cons, ih]
      tauto

theorem Memory.pairwise_insertCell {m : Memory} {a : Nat} {x : Byte}
    (h : m.Pairwise (fun c d => c.1 < d.1)) (hne : ∀ c ∈ m, c.1 ≠ a) :
    (Memory.insertCell a x m).Pairwise (fun c d => c.1 < d.1) := by
  induction m with
  | nil => simp [Memory.insertCell]
  | cons d m ih =>
    have hd := List.pairwise_cons.mp h
    unfold Memory.insertCell
    split
    · rename_i hlt
      refine List.pairwise_cons.mpr ⟨fun e he => ?_, h⟩
      rcases List.mem_cons.mp he with rfl | he
      · exact hlt
      · exact Nat.lt_trans hlt (hd.1 e he)
    · rename_i hlt
      refine List.pairwise_cons.mpr ⟨fun e he => ?_, ih hd.2 (fun c hc => hne c (by simp [hc]))⟩
      rcases Memory.mem_insertCell.mp he with rfl | he
      · have := hne d (by simp)
        simp only at hlt ⊢
        omega
      · exact hd.1 e he

/-- A write inside the address space keeps the canonical form. -/
theorem Memory.write_wf {m : Memory} (h : m.wf = true) {a : Nat} (ha : a < memSize) (x : Byte) :
    (m.write a x).wf = true := by
  rw [Memory.wf_iff] at h ⊢
  have hp := h.1.sublist (List.filter_sublist (p := fun c => c.1 != a))
  have hm : ∀ c ∈ m.filter (fun c => c.1 != a), c.1 < memSize ∧ c.2 ≠ unlistedByte :=
    fun c hc => h.2 c (List.mem_filter.mp hc).1
  unfold Memory.write
  by_cases hx : x = unlistedByte
  · simp only [if_pos hx]
    exact ⟨hp, hm⟩
  · simp only [if_neg hx]
    refine ⟨Memory.pairwise_insertCell hp fun c hc => by simpa using (List.mem_filter.mp hc).2, ?_⟩
    intro c hc
    rcases Memory.mem_insertCell.mp hc with rfl | hc
    · exact ⟨ha, hx⟩
    · exact hm c hc

/-- A run of stores inside the address space keeps the canonical form. -/
theorem Memory.writeBytes_wf {m : Memory} (h : m.wf = true) {a : Nat} (xs : List Byte)
    (ha : a + xs.length ≤ memSize) : (m.writeBytes a xs).wf = true := by
  induction xs generalizing m a with
  | nil => exact h
  | cons x xs ih =>
    simp only [List.length_cons] at ha
    exact ih (Memory.write_wf h (by omega) x) (by omega)

/-- What the memory `Reset` starts from reads as, at every address. -/
theorem fontMemory_read (cfg : Config) (a : Nat) : (fontMemory cfg).read a = fontByte cfg a := by
  unfold fontMemory fontByte
  cases cfg.fontImage with
  | none => rfl
  | some image =>
    simp only [Memory.read_writeBytes]
    split
    · split
      · rename_i h
        rw [List.getElem?_eq_getElem (by simpa using h.2)]
        simp
      · rw [List.getElem?_eq_none (by simp; omega)]
        rfl
    · rw [dif_neg (by omega)]
      rfl

/-- The memory `Reset` starts from has the canonical form where FONT_BASE is legal. -/
theorem fontMemory_wf {cfg : Config} (h : cfg.wf = true) : (fontMemory cfg).wf = true := by
  unfold fontMemory
  split
  · rfl
  · refine Memory.writeBytes_wf rfl _ ?_
    simpa [Config.wf] using h

end Sys2Proof.Machine
end

