-- ==== Sys2Proof/Laws/State.lean ====
section
/-! SUPPORT. One lemma per field per update, each true by rfl, so that no proof unfolds a record update. -/

namespace Sys2Proof.Machine

section
variable (s : State)
@[simp] theorem State.v_setV (x : Nibble) (b : Byte) : (s.setV x b).v = s.v.set x.toNat b x.isLt := rfl
@[simp] theorem State.i_setV (x : Nibble) (b : Byte) : (s.setV x b).i = s.i := rfl
@[simp] theorem State.pc_setV (x : Nibble) (b : Byte) : (s.setV x b).pc = s.pc := rfl
@[simp] theorem State.dt_setV (x : Nibble) (b : Byte) : (s.setV x b).dt = s.dt := rfl
@[simp] theorem State.st_setV (x : Nibble) (b : Byte) : (s.setV x b).st = s.st := rfl
@[simp] theorem State.sp_setV (x : Nibble) (b : Byte) : (s.setV x b).sp = s.sp := rfl
@[simp] theorem State.stack_setV (x : Nibble) (b : Byte) : (s.setV x b).stack = s.stack := rfl
@[simp] theorem State.mode_setV (x : Nibble) (b : Byte) : (s.setV x b).mode = s.mode := rfl
@[simp] theorem State.mem_setV (x : Nibble) (b : Byte) : (s.setV x b).mem = s.mem := rfl
@[simp] theorem State.disp_setV (x : Nibble) (b : Byte) : (s.setV x b).disp = s.disp := rfl
@[simp] theorem State.cfg_setV (x : Nibble) (b : Byte) : (s.setV x b).cfg = s.cfg := rfl
@[simp] theorem State.pending_setV (x : Nibble) (b : Byte) : (s.setV x b).pending = s.pending := rfl
@[simp] theorem State.rngDraws_setV (x : Nibble) (b : Byte) : (s.setV x b).rngDraws = s.rngDraws := rfl
@[simp] theorem State.keyQueries_setV (x : Nibble) (b : Byte) : (s.setV x b).keyQueries = s.keyQueries := rfl
@[simp] theorem State.audio_setV (x : Nibble) (b : Byte) : (s.setV x b).audio = s.audio := rfl
@[simp] theorem State.capacity_setV (x : Nibble) (b : Byte) : (s.setV x b).capacity = s.capacity := rfl
end

section
variable (s : State)
@[simp] theorem State.v_setRegs (w : Vector Byte 16) : (s.setRegs w).v = w := rfl
@[simp] theorem State.i_setRegs (w : Vector Byte 16) : (s.setRegs w).i = s.i := rfl
@[simp] theorem State.pc_setRegs (w : Vector Byte 16) : (s.setRegs w).pc = s.pc := rfl
@[simp] theorem State.dt_setRegs (w : Vector Byte 16) : (s.setRegs w).dt = s.dt := rfl
@[simp] theorem State.st_setRegs (w : Vector Byte 16) : (s.setRegs w).st = s.st := rfl
@[simp] theorem State.sp_setRegs (w : Vector Byte 16) : (s.setRegs w).sp = s.sp := rfl
@[simp] theorem State.stack_setRegs (w : Vector Byte 16) : (s.setRegs w).stack = s.stack := rfl
@[simp] theorem State.mode_setRegs (w : Vector Byte 16) : (s.setRegs w).mode = s.mode := rfl
@[simp] theorem State.mem_setRegs (w : Vector Byte 16) : (s.setRegs w).mem = s.mem := rfl
@[simp] theorem State.disp_setRegs (w : Vector Byte 16) : (s.setRegs w).disp = s.disp := rfl
@[simp] theorem State.cfg_setRegs (w : Vector Byte 16) : (s.setRegs w).cfg = s.cfg := rfl
@[simp] theorem State.pending_setRegs (w : Vector Byte 16) : (s.setRegs w).pending = s.pending := rfl
@[simp] theorem State.rngDraws_setRegs (w : Vector Byte 16) : (s.setRegs w).rngDraws = s.rngDraws := rfl
@[simp] theorem State.keyQueries_setRegs (w : Vector Byte 16) : (s.setRegs w).keyQueries = s.keyQueries := rfl
@[simp] theorem State.audio_setRegs (w : Vector Byte 16) : (s.setRegs w).audio = s.audio := rfl
@[simp] theorem State.capacity_setRegs (w : Vector Byte 16) : (s.setRegs w).capacity = s.capacity := rfl
end

section
variable (s : State)
@[simp] theorem State.v_setI (a : Word) : (s.setI a).v = s.v := rfl
@[simp] theorem State.i_setI (a : Word) : (s.setI a).i = a := rfl
@[simp] theorem State.pc_setI (a : Word) : (s.setI a).pc = s.pc := rfl
@[simp] theorem State.dt_setI (a : Word) : (s.setI a).dt = s.dt := rfl
@[simp] theorem State.st_setI (a : Word) : (s.setI a).st = s.st := rfl
@[simp] theorem State.sp_setI (a : Word) : (s.setI a).sp = s.sp := rfl
@[simp] theorem State.stack_setI (a : Word) : (s.setI a).stack = s.stack := rfl
@[simp] theorem State.mode_setI (a : Word) : (s.setI a).mode = s.mode := rfl
@[simp] theorem State.mem_setI (a : Word) : (s.setI a).mem = s.mem := rfl
@[simp] theorem State.disp_setI (a : Word) : (s.setI a).disp = s.disp := rfl
@[simp] theorem State.cfg_setI (a : Word) : (s.setI a).cfg = s.cfg := rfl
@[simp] theorem State.pending_setI (a : Word) : (s.setI a).pending = s.pending := rfl
@[simp] theorem State.rngDraws_setI (a : Word) : (s.setI a).rngDraws = s.rngDraws := rfl
@[simp] theorem State.keyQueries_setI (a : Word) : (s.setI a).keyQueries = s.keyQueries := rfl
@[simp] theorem State.audio_setI (a : Word) : (s.setI a).audio = s.audio := rfl
@[simp] theorem State.getV_setI (a : Word) (r : Nibble) : (s.setI a).getV r = s.getV r := rfl
@[simp] theorem State.capacity_setI (a : Word) : (s.setI a).capacity = s.capacity := rfl
end

section
variable (s : State)
@[simp] theorem State.v_setPc (a : Word) : (s.setPc a).v = s.v := rfl
@[simp] theorem State.i_setPc (a : Word) : (s.setPc a).i = s.i := rfl
@[simp] theorem State.pc_setPc (a : Word) : (s.setPc a).pc = a := rfl
@[simp] theorem State.dt_setPc (a : Word) : (s.setPc a).dt = s.dt := rfl
@[simp] theorem State.st_setPc (a : Word) : (s.setPc a).st = s.st := rfl
@[simp] theorem State.sp_setPc (a : Word) : (s.setPc a).sp = s.sp := rfl
@[simp] theorem State.stack_setPc (a : Word) : (s.setPc a).stack = s.stack := rfl
@[simp] theorem State.mode_setPc (a : Word) : (s.setPc a).mode = s.mode := rfl
@[simp] theorem State.mem_setPc (a : Word) : (s.setPc a).mem = s.mem := rfl
@[simp] theorem State.disp_setPc (a : Word) : (s.setPc a).disp = s.disp := rfl
@[simp] theorem State.cfg_setPc (a : Word) : (s.setPc a).cfg = s.cfg := rfl
@[simp] theorem State.pending_setPc (a : Word) : (s.setPc a).pending = s.pending := rfl
@[simp] theorem State.rngDraws_setPc (a : Word) : (s.setPc a).rngDraws = s.rngDraws := rfl
@[simp] theorem State.keyQueries_setPc (a : Word) : (s.setPc a).keyQueries = s.keyQueries := rfl
@[simp] theorem State.audio_setPc (a : Word) : (s.setPc a).audio = s.audio := rfl
@[simp] theorem State.getV_setPc (a : Word) (r : Nibble) : (s.setPc a).getV r = s.getV r := rfl
@[simp] theorem State.capacity_setPc (a : Word) : (s.setPc a).capacity = s.capacity := rfl
end

section
variable (s : State)
@[simp] theorem State.v_setDt (b : Byte) : (s.setDt b).v = s.v := rfl
@[simp] theorem State.i_setDt (b : Byte) : (s.setDt b).i = s.i := rfl
@[simp] theorem State.pc_setDt (b : Byte) : (s.setDt b).pc = s.pc := rfl
@[simp] theorem State.dt_setDt (b : Byte) : (s.setDt b).dt = b := rfl
@[simp] theorem State.st_setDt (b : Byte) : (s.setDt b).st = s.st := rfl
@[simp] theorem State.sp_setDt (b : Byte) : (s.setDt b).sp = s.sp := rfl
@[simp] theorem State.stack_setDt (b : Byte) : (s.setDt b).stack = s.stack := rfl
@[simp] theorem State.mode_setDt (b : Byte) : (s.setDt b).mode = s.mode := rfl
@[simp] theorem State.mem_setDt (b : Byte) : (s.setDt b).mem = s.mem := rfl
@[simp] theorem State.disp_setDt (b : Byte) : (s.setDt b).disp = s.disp := rfl
@[simp] theorem State.cfg_setDt (b : Byte) : (s.setDt b).cfg = s.cfg := rfl
@[simp] theorem State.pending_setDt (b : Byte) : (s.setDt b).pending = s.pending := rfl
@[simp] theorem State.rngDraws_setDt (b : Byte) : (s.setDt b).rngDraws = s.rngDraws := rfl
@[simp] theorem State.keyQueries_setDt (b : Byte) : (s.setDt b).keyQueries = s.keyQueries := rfl
@[simp] theorem State.audio_setDt (b : Byte) : (s.setDt b).audio = s.audio := rfl
@[simp] theorem State.getV_setDt (b : Byte) (r : Nibble) : (s.setDt b).getV r = s.getV r := rfl
@[simp] theorem State.capacity_setDt (b : Byte) : (s.setDt b).capacity = s.capacity := rfl
end

section
variable (s : State)
@[simp] theorem State.v_setSt (b : Byte) : (s.setSt b).v = s.v := rfl
@[simp] theorem State.i_setSt (b : Byte) : (s.setSt b).i = s.i := rfl
@[simp] theorem State.pc_setSt (b : Byte) : (s.setSt b).pc = s.pc := rfl
@[simp] theorem State.dt_setSt (b : Byte) : (s.setSt b).dt = s.dt := rfl
@[simp] theorem State.st_setSt (b : Byte) : (s.setSt b).st = b := rfl
@[simp] theorem State.sp_setSt (b : Byte) : (s.setSt b).sp = s.sp := rfl
@[simp] theorem State.stack_setSt (b : Byte) : (s.setSt b).stack = s.stack := rfl
@[simp] theorem State.mode_setSt (b : Byte) : (s.setSt b).mode = s.mode := rfl
@[simp] theorem State.mem_setSt (b : Byte) : (s.setSt b).mem = s.mem := rfl
@[simp] theorem State.disp_setSt (b : Byte) : (s.setSt b).disp = s.disp := rfl
@[simp] theorem State.cfg_setSt (b : Byte) : (s.setSt b).cfg = s.cfg := rfl
@[simp] theorem State.pending_setSt (b : Byte) : (s.setSt b).pending = s.pending := rfl
@[simp] theorem State.rngDraws_setSt (b : Byte) : (s.setSt b).rngDraws = s.rngDraws := rfl
@[simp] theorem State.keyQueries_setSt (b : Byte) : (s.setSt b).keyQueries = s.keyQueries := rfl
@[simp] theorem State.audio_setSt (b : Byte) : (s.setSt b).audio = s.audio := rfl
@[simp] theorem State.getV_setSt (b : Byte) (r : Nibble) : (s.setSt b).getV r = s.getV r := rfl
@[simp] theorem State.capacity_setSt (b : Byte) : (s.setSt b).capacity = s.capacity := rfl
end

section
variable (s : State)
@[simp] theorem State.v_setSp (n : BitVec 5) : (s.setSp n).v = s.v := rfl
@[simp] theorem State.i_setSp (n : BitVec 5) : (s.setSp n).i = s.i := rfl
@[simp] theorem State.pc_setSp (n : BitVec 5) : (s.setSp n).pc = s.pc := rfl
@[simp] theorem State.dt_setSp (n : BitVec 5) : (s.setSp n).dt = s.dt := rfl
@[simp] theorem State.st_setSp (n : BitVec 5) : (s.setSp n).st = s.st := rfl
@[simp] theorem State.sp_setSp (n : BitVec 5) : (s.setSp n).sp = n := rfl
@[simp] theorem State.stack_setSp (n : BitVec 5) : (s.setSp n).stack = s.stack := rfl
@[simp] theorem State.mode_setSp (n : BitVec 5) : (s.setSp n).mode = s.mode := rfl
@[simp] theorem State.mem_setSp (n : BitVec 5) : (s.setSp n).mem = s.mem := rfl
@[simp] theorem State.disp_setSp (n : BitVec 5) : (s.setSp n).disp = s.disp := rfl
@[simp] theorem State.cfg_setSp (n : BitVec 5) : (s.setSp n).cfg = s.cfg := rfl
@[simp] theorem State.pending_setSp (n : BitVec 5) : (s.setSp n).pending = s.pending := rfl
@[simp] theorem State.rngDraws_setSp (n : BitVec 5) : (s.setSp n).rngDraws = s.rngDraws := rfl
@[simp] theorem State.keyQueries_setSp (n : BitVec 5) : (s.setSp n).keyQueries = s.keyQueries := rfl
@[simp] theorem State.audio_setSp (n : BitVec 5) : (s.setSp n).audio = s.audio := rfl
@[simp] theorem State.getV_setSp (n : BitVec 5) (r : Nibble) : (s.setSp n).getV r = s.getV r := rfl
@[simp] theorem State.capacity_setSp (n : BitVec 5) : (s.setSp n).capacity = s.capacity := rfl
end

section
variable (s : State)
@[simp] theorem State.v_setStack (k : Fin 16) (a : Word) : (s.setStack k a).v = s.v := rfl
@[simp] theorem State.i_setStack (k : Fin 16) (a : Word) : (s.setStack k a).i = s.i := rfl
@[simp] theorem State.pc_setStack (k : Fin 16) (a : Word) : (s.setStack k a).pc = s.pc := rfl
@[simp] theorem State.dt_setStack (k : Fin 16) (a : Word) : (s.setStack k a).dt = s.dt := rfl
@[simp] theorem State.st_setStack (k : Fin 16) (a : Word) : (s.setStack k a).st = s.st := rfl
@[simp] theorem State.sp_setStack (k : Fin 16) (a : Word) : (s.setStack k a).sp = s.sp := rfl
@[simp] theorem State.stack_setStack (k : Fin 16) (a : Word) : (s.setStack k a).stack = s.stack.set k.val a k.isLt := rfl
@[simp] theorem State.mode_setStack (k : Fin 16) (a : Word) : (s.setStack k a).mode = s.mode := rfl
@[simp] theorem State.mem_setStack (k : Fin 16) (a : Word) : (s.setStack k a).mem = s.mem := rfl
@[simp] theorem State.disp_setStack (k : Fin 16) (a : Word) : (s.setStack k a).disp = s.disp := rfl
@[simp] theorem State.cfg_setStack (k : Fin 16) (a : Word) : (s.setStack k a).cfg = s.cfg := rfl
@[simp] theorem State.pending_setStack (k : Fin 16) (a : Word) : (s.setStack k a).pending = s.pending := rfl
@[simp] theorem State.rngDraws_setStack (k : Fin 16) (a : Word) : (s.setStack k a).rngDraws = s.rngDraws := rfl
@[simp] theorem State.keyQueries_setStack (k : Fin 16) (a : Word) : (s.setStack k a).keyQueries = s.keyQueries := rfl
@[simp] theorem State.audio_setStack (k : Fin 16) (a : Word) : (s.setStack k a).audio = s.audio := rfl
@[simp] theorem State.getV_setStack (k : Fin 16) (a : Word) (r : Nibble) : (s.setStack k a).getV r = s.getV r := rfl
@[simp] theorem State.capacity_setStack (k : Fin 16) (a : Word) : (s.setStack k a).capacity = s.capacity := rfl
end

section
variable (s : State)
@[simp] theorem State.v_setMode (m : Mode) : (s.setMode m).v = s.v := rfl
@[simp] theorem State.i_setMode (m : Mode) : (s.setMode m).i = s.i := rfl
@[simp] theorem State.pc_setMode (m : Mode) : (s.setMode m).pc = s.pc := rfl
@[simp] theorem State.dt_setMode (m : Mode) : (s.setMode m).dt = s.dt := rfl
@[simp] theorem State.st_setMode (m : Mode) : (s.setMode m).st = s.st := rfl
@[simp] theorem State.sp_setMode (m : Mode) : (s.setMode m).sp = s.sp := rfl
@[simp] theorem State.stack_setMode (m : Mode) : (s.setMode m).stack = s.stack := rfl
@[simp] theorem State.mode_setMode (m : Mode) : (s.setMode m).mode = m := rfl
@[simp] theorem State.mem_setMode (m : Mode) : (s.setMode m).mem = s.mem := rfl
@[simp] theorem State.disp_setMode (m : Mode) : (s.setMode m).disp = s.disp := rfl
@[simp] theorem State.cfg_setMode (m : Mode) : (s.setMode m).cfg = s.cfg := rfl
@[simp] theorem State.pending_setMode (m : Mode) : (s.setMode m).pending = s.pending := rfl
@[simp] theorem State.rngDraws_setMode (m : Mode) : (s.setMode m).rngDraws = s.rngDraws := rfl
@[simp] theorem State.keyQueries_setMode (m : Mode) : (s.setMode m).keyQueries = s.keyQueries := rfl
@[simp] theorem State.audio_setMode (m : Mode) : (s.setMode m).audio = s.audio := rfl
@[simp] theorem State.getV_setMode (m : Mode) (r : Nibble) : (s.setMode m).getV r = s.getV r := rfl
@[simp] theorem State.capacity_setMode (m : Mode) : (s.setMode m).capacity = s.capacity := rfl
end

section
variable (s : State)
@[simp] theorem State.v_setMem (m : Memory) : (s.setMem m).v = s.v := rfl
@[simp] theorem State.i_setMem (m : Memory) : (s.setMem m).i = s.i := rfl
@[simp] theorem State.pc_setMem (m : Memory) : (s.setMem m).pc = s.pc := rfl
@[simp] theorem State.dt_setMem (m : Memory) : (s.setMem m).dt = s.dt := rfl
@[simp] theorem State.st_setMem (m : Memory) : (s.setMem m).st = s.st := rfl
@[simp] theorem State.sp_setMem (m : Memory) : (s.setMem m).sp = s.sp := rfl
@[simp] theorem State.stack_setMem (m : Memory) : (s.setMem m).stack = s.stack := rfl
@[simp] theorem State.mode_setMem (m : Memory) : (s.setMem m).mode = s.mode := rfl
@[simp] theorem State.mem_setMem (m : Memory) : (s.setMem m).mem = m := rfl
@[simp] theorem State.disp_setMem (m : Memory) : (s.setMem m).disp = s.disp := rfl
@[simp] theorem State.cfg_setMem (m : Memory) : (s.setMem m).cfg = s.cfg := rfl
@[simp] theorem State.pending_setMem (m : Memory) : (s.setMem m).pending = s.pending := rfl
@[simp] theorem State.rngDraws_setMem (m : Memory) : (s.setMem m).rngDraws = s.rngDraws := rfl
@[simp] theorem State.keyQueries_setMem (m : Memory) : (s.setMem m).keyQueries = s.keyQueries := rfl
@[simp] theorem State.audio_setMem (m : Memory) : (s.setMem m).audio = s.audio := rfl
@[simp] theorem State.getV_setMem (m : Memory) (r : Nibble) : (s.setMem m).getV r = s.getV r := rfl
@[simp] theorem State.capacity_setMem (m : Memory) : (s.setMem m).capacity = s.capacity := rfl
end

section
variable (s : State)
@[simp] theorem State.v_setDisp (d : Display) : (s.setDisp d).v = s.v := rfl
@[simp] theorem State.i_setDisp (d : Display) : (s.setDisp d).i = s.i := rfl
@[simp] theorem State.pc_setDisp (d : Display) : (s.setDisp d).pc = s.pc := rfl
@[simp] theorem State.dt_setDisp (d : Display) : (s.setDisp d).dt = s.dt := rfl
@[simp] theorem State.st_setDisp (d : Display) : (s.setDisp d).st = s.st := rfl
@[simp] theorem State.sp_setDisp (d : Display) : (s.setDisp d).sp = s.sp := rfl
@[simp] theorem State.stack_setDisp (d : Display) : (s.setDisp d).stack = s.stack := rfl
@[simp] theorem State.mode_setDisp (d : Display) : (s.setDisp d).mode = s.mode := rfl
@[simp] theorem State.mem_setDisp (d : Display) : (s.setDisp d).mem = s.mem := rfl
@[simp] theorem State.disp_setDisp (d : Display) : (s.setDisp d).disp = d := rfl
@[simp] theorem State.cfg_setDisp (d : Display) : (s.setDisp d).cfg = s.cfg := rfl
@[simp] theorem State.pending_setDisp (d : Display) : (s.setDisp d).pending = s.pending := rfl
@[simp] theorem State.rngDraws_setDisp (d : Display) : (s.setDisp d).rngDraws = s.rngDraws := rfl
@[simp] theorem State.keyQueries_setDisp (d : Display) : (s.setDisp d).keyQueries = s.keyQueries := rfl
@[simp] theorem State.audio_setDisp (d : Display) : (s.setDisp d).audio = s.audio := rfl
@[simp] theorem State.getV_setDisp (d : Display) (r : Nibble) : (s.setDisp d).getV r = s.getV r := rfl
@[simp] theorem State.capacity_setDisp (d : Display) : (s.setDisp d).capacity = s.capacity := rfl
end

section
variable (s : State)
@[simp] theorem State.v_clearDisplay : s.clearDisplay.v = s.v := rfl
@[simp] theorem State.i_clearDisplay : s.clearDisplay.i = s.i := rfl
@[simp] theorem State.pc_clearDisplay : s.clearDisplay.pc = s.pc := rfl
@[simp] theorem State.dt_clearDisplay : s.clearDisplay.dt = s.dt := rfl
@[simp] theorem State.st_clearDisplay : s.clearDisplay.st = s.st := rfl
@[simp] theorem State.sp_clearDisplay : s.clearDisplay.sp = s.sp := rfl
@[simp] theorem State.stack_clearDisplay : s.clearDisplay.stack = s.stack := rfl
@[simp] theorem State.mode_clearDisplay : s.clearDisplay.mode = s.mode := rfl
@[simp] theorem State.mem_clearDisplay : s.clearDisplay.mem = s.mem := rfl
@[simp] theorem State.disp_clearDisplay : s.clearDisplay.disp = Display.blank := rfl
@[simp] theorem State.cfg_clearDisplay : s.clearDisplay.cfg = s.cfg := rfl
@[simp] theorem State.pending_clearDisplay : s.clearDisplay.pending = s.pending := rfl
@[simp] theorem State.rngDraws_clearDisplay : s.clearDisplay.rngDraws = s.rngDraws := rfl
@[simp] theorem State.keyQueries_clearDisplay : s.clearDisplay.keyQueries = s.keyQueries := rfl
@[simp] theorem State.audio_clearDisplay : s.clearDisplay.audio = s.audio := rfl
@[simp] theorem State.getV_clearDisplay (r : Nibble) : s.clearDisplay.getV r = s.getV r := rfl
@[simp] theorem State.capacity_clearDisplay : s.clearDisplay.capacity = s.capacity := rfl
end

section
variable (s : State)
@[simp] theorem State.v_setPending (es : List Event) : (s.setPending es).v = s.v := rfl
@[simp] theorem State.i_setPending (es : List Event) : (s.setPending es).i = s.i := rfl
@[simp] theorem State.pc_setPending (es : List Event) : (s.setPending es).pc = s.pc := rfl
@[simp] theorem State.dt_setPending (es : List Event) : (s.setPending es).dt = s.dt := rfl
@[simp] theorem State.st_setPending (es : List Event) : (s.setPending es).st = s.st := rfl
@[simp] theorem State.sp_setPending (es : List Event) : (s.setPending es).sp = s.sp := rfl
@[simp] theorem State.stack_setPending (es : List Event) : (s.setPending es).stack = s.stack := rfl
@[simp] theorem State.mode_setPending (es : List Event) : (s.setPending es).mode = s.mode := rfl
@[simp] theorem State.mem_setPending (es : List Event) : (s.setPending es).mem = s.mem := rfl
@[simp] theorem State.disp_setPending (es : List Event) : (s.setPending es).disp = s.disp := rfl
@[simp] theorem State.cfg_setPending (es : List Event) : (s.setPending es).cfg = s.cfg := rfl
@[simp] theorem State.pending_setPending (es : List Event) : (s.setPending es).pending = es := rfl
@[simp] theorem State.rngDraws_setPending (es : List Event) : (s.setPending es).rngDraws = s.rngDraws := rfl
@[simp] theorem State.keyQueries_setPending (es : List Event) : (s.setPending es).keyQueries = s.keyQueries := rfl
@[simp] theorem State.audio_setPending (es : List Event) : (s.setPending es).audio = s.audio := rfl
@[simp] theorem State.getV_setPending (es : List Event) (r : Nibble) : (s.setPending es).getV r = s.getV r := rfl
@[simp] theorem State.capacity_setPending (es : List Event) : (s.setPending es).capacity = s.capacity := rfl
end

section
variable (s : State)
@[simp] theorem State.v_takeEvent : s.takeEvent.v = s.v := rfl
@[simp] theorem State.i_takeEvent : s.takeEvent.i = s.i := rfl
@[simp] theorem State.pc_takeEvent : s.takeEvent.pc = s.pc := rfl
@[simp] theorem State.dt_takeEvent : s.takeEvent.dt = s.dt := rfl
@[simp] theorem State.st_takeEvent : s.takeEvent.st = s.st := rfl
@[simp] theorem State.sp_takeEvent : s.takeEvent.sp = s.sp := rfl
@[simp] theorem State.stack_takeEvent : s.takeEvent.stack = s.stack := rfl
@[simp] theorem State.mode_takeEvent : s.takeEvent.mode = s.mode := rfl
@[simp] theorem State.mem_takeEvent : s.takeEvent.mem = s.mem := rfl
@[simp] theorem State.disp_takeEvent : s.takeEvent.disp = s.disp := rfl
@[simp] theorem State.cfg_takeEvent : s.takeEvent.cfg = s.cfg := rfl
@[simp] theorem State.pending_takeEvent : s.takeEvent.pending = s.pending.tail := rfl
@[simp] theorem State.rngDraws_takeEvent : s.takeEvent.rngDraws = s.rngDraws := rfl
@[simp] theorem State.keyQueries_takeEvent : s.takeEvent.keyQueries = s.keyQueries := rfl
@[simp] theorem State.audio_takeEvent : s.takeEvent.audio = s.audio := rfl
@[simp] theorem State.getV_takeEvent (r : Nibble) : s.takeEvent.getV r = s.getV r := rfl
@[simp] theorem State.capacity_takeEvent : s.takeEvent.capacity = s.capacity := rfl
end

section
variable (s : State)
@[simp] theorem State.v_nextByte : s.nextByte.2.v = s.v := rfl
@[simp] theorem State.i_nextByte : s.nextByte.2.i = s.i := rfl
@[simp] theorem State.pc_nextByte : s.nextByte.2.pc = s.pc := rfl
@[simp] theorem State.dt_nextByte : s.nextByte.2.dt = s.dt := rfl
@[simp] theorem State.st_nextByte : s.nextByte.2.st = s.st := rfl
@[simp] theorem State.sp_nextByte : s.nextByte.2.sp = s.sp := rfl
@[simp] theorem State.stack_nextByte : s.nextByte.2.stack = s.stack := rfl
@[simp] theorem State.mode_nextByte : s.nextByte.2.mode = s.mode := rfl
@[simp] theorem State.mem_nextByte : s.nextByte.2.mem = s.mem := rfl
@[simp] theorem State.disp_nextByte : s.nextByte.2.disp = s.disp := rfl
@[simp] theorem State.cfg_nextByte : s.nextByte.2.cfg = s.cfg := rfl
@[simp] theorem State.pending_nextByte : s.nextByte.2.pending = s.pending := rfl
@[simp] theorem State.rngDraws_nextByte : s.nextByte.2.rngDraws = s.rngDraws + 1 := rfl
@[simp] theorem State.keyQueries_nextByte : s.nextByte.2.keyQueries = s.keyQueries := rfl
@[simp] theorem State.audio_nextByte : s.nextByte.2.audio = s.audio := rfl
@[simp] theorem State.getV_nextByte (r : Nibble) : s.nextByte.2.getV r = s.getV r := rfl
@[simp] theorem State.capacity_nextByte : s.nextByte.2.capacity = s.capacity := rfl
end

section
variable (s : State)
@[simp] theorem State.v_isPressed (key : Nibble) : (s.isPressed key).2.v = s.v := rfl
@[simp] theorem State.i_isPressed (key : Nibble) : (s.isPressed key).2.i = s.i := rfl
@[simp] theorem State.pc_isPressed (key : Nibble) : (s.isPressed key).2.pc = s.pc := rfl
@[simp] theorem State.dt_isPressed (key : Nibble) : (s.isPressed key).2.dt = s.dt := rfl
@[simp] theorem State.st_isPressed (key : Nibble) : (s.isPressed key).2.st = s.st := rfl
@[simp] theorem State.sp_isPressed (key : Nibble) : (s.isPressed key).2.sp = s.sp := rfl
@[simp] theorem State.stack_isPressed (key : Nibble) : (s.isPressed key).2.stack = s.stack := rfl
@[simp] theorem State.mode_isPressed (key : Nibble) : (s.isPressed key).2.mode = s.mode := rfl
@[simp] theorem State.mem_isPressed (key : Nibble) : (s.isPressed key).2.mem = s.mem := rfl
@[simp] theorem State.disp_isPressed (key : Nibble) : (s.isPressed key).2.disp = s.disp := rfl
@[simp] theorem State.cfg_isPressed (key : Nibble) : (s.isPressed key).2.cfg = s.cfg := rfl
@[simp] theorem State.pending_isPressed (key : Nibble) : (s.isPressed key).2.pending = s.pending := rfl
@[simp] theorem State.rngDraws_isPressed (key : Nibble) : (s.isPressed key).2.rngDraws = s.rngDraws := rfl
@[simp] theorem State.keyQueries_isPressed (key : Nibble) : (s.isPressed key).2.keyQueries = s.keyQueries + 1 := rfl
@[simp] theorem State.audio_isPressed (key : Nibble) : (s.isPressed key).2.audio = s.audio := rfl
@[simp] theorem State.getV_isPressed (key : Nibble) (r : Nibble) : (s.isPressed key).2.getV r = s.getV r := rfl
@[simp] theorem State.capacity_isPressed (key : Nibble) : (s.isPressed key).2.capacity = s.capacity := rfl
end

section
variable (s : State)
@[simp] theorem State.v_toneCall (on : Bool) : (s.toneCall on).v = s.v := rfl
@[simp] theorem State.i_toneCall (on : Bool) : (s.toneCall on).i = s.i := rfl
@[simp] theorem State.pc_toneCall (on : Bool) : (s.toneCall on).pc = s.pc := rfl
@[simp] theorem State.dt_toneCall (on : Bool) : (s.toneCall on).dt = s.dt := rfl
@[simp] theorem State.st_toneCall (on : Bool) : (s.toneCall on).st = s.st := rfl
@[simp] theorem State.sp_toneCall (on : Bool) : (s.toneCall on).sp = s.sp := rfl
@[simp] theorem State.stack_toneCall (on : Bool) : (s.toneCall on).stack = s.stack := rfl
@[simp] theorem State.mode_toneCall (on : Bool) : (s.toneCall on).mode = s.mode := rfl
@[simp] theorem State.mem_toneCall (on : Bool) : (s.toneCall on).mem = s.mem := rfl
@[simp] theorem State.disp_toneCall (on : Bool) : (s.toneCall on).disp = s.disp := rfl
@[simp] theorem State.cfg_toneCall (on : Bool) : (s.toneCall on).cfg = s.cfg := rfl
@[simp] theorem State.pending_toneCall (on : Bool) : (s.toneCall on).pending = s.pending := rfl
@[simp] theorem State.rngDraws_toneCall (on : Bool) : (s.toneCall on).rngDraws = s.rngDraws := rfl
@[simp] theorem State.keyQueries_toneCall (on : Bool) : (s.toneCall on).keyQueries = s.keyQueries := rfl
@[simp] theorem State.audio_toneCall (on : Bool) : (s.toneCall on).audio = on :: s.audio := rfl
@[simp] theorem State.getV_toneCall (on : Bool) (r : Nibble) : (s.toneCall on).getV r = s.getV r := rfl
@[simp] theorem State.capacity_toneCall (on : Bool) : (s.toneCall on).capacity = s.capacity := rfl
end

section
variable (s : State)
@[simp] theorem State.v_advance : s.advance.v = s.v := rfl
@[simp] theorem State.i_advance : s.advance.i = s.i := rfl
@[simp] theorem State.pc_advance : s.advance.pc = nextPc s.pc := rfl
@[simp] theorem State.dt_advance : s.advance.dt = s.dt := rfl
@[simp] theorem State.st_advance : s.advance.st = s.st := rfl
@[simp] theorem State.sp_advance : s.advance.sp = s.sp := rfl
@[simp] theorem State.stack_advance : s.advance.stack = s.stack := rfl
@[simp] theorem State.mode_advance : s.advance.mode = s.mode := rfl
@[simp] theorem State.mem_advance : s.advance.mem = s.mem := rfl
@[simp] theorem State.disp_advance : s.advance.disp = s.disp := rfl
@[simp] theorem State.cfg_advance : s.advance.cfg = s.cfg := rfl
@[simp] theorem State.pending_advance : s.advance.pending = s.pending := rfl
@[simp] theorem State.rngDraws_advance : s.advance.rngDraws = s.rngDraws := rfl
@[simp] theorem State.keyQueries_advance : s.advance.keyQueries = s.keyQueries := rfl
@[simp] theorem State.audio_advance : s.advance.audio = s.audio := rfl
@[simp] theorem State.getV_advance (r : Nibble) : s.advance.getV r = s.getV r := rfl
@[simp] theorem State.capacity_advance : s.advance.capacity = s.capacity := rfl
end

section
variable (s : State)
@[simp] theorem State.v_skipIf (c : Bool) : (s.skipIf c).v = s.v := rfl
@[simp] theorem State.i_skipIf (c : Bool) : (s.skipIf c).i = s.i := rfl
@[simp] theorem State.pc_skipIf (c : Bool) : (s.skipIf c).pc = if c then skipPc s.pc else nextPc s.pc := rfl
@[simp] theorem State.dt_skipIf (c : Bool) : (s.skipIf c).dt = s.dt := rfl
@[simp] theorem State.st_skipIf (c : Bool) : (s.skipIf c).st = s.st := rfl
@[simp] theorem State.sp_skipIf (c : Bool) : (s.skipIf c).sp = s.sp := rfl
@[simp] theorem State.stack_skipIf (c : Bool) : (s.skipIf c).stack = s.stack := rfl
@[simp] theorem State.mode_skipIf (c : Bool) : (s.skipIf c).mode = s.mode := rfl
@[simp] theorem State.mem_skipIf (c : Bool) : (s.skipIf c).mem = s.mem := rfl
@[simp] theorem State.disp_skipIf (c : Bool) : (s.skipIf c).disp = s.disp := rfl
@[simp] theorem State.cfg_skipIf (c : Bool) : (s.skipIf c).cfg = s.cfg := rfl
@[simp] theorem State.pending_skipIf (c : Bool) : (s.skipIf c).pending = s.pending := rfl
@[simp] theorem State.rngDraws_skipIf (c : Bool) : (s.skipIf c).rngDraws = s.rngDraws := rfl
@[simp] theorem State.keyQueries_skipIf (c : Bool) : (s.skipIf c).keyQueries = s.keyQueries := rfl
@[simp] theorem State.audio_skipIf (c : Bool) : (s.skipIf c).audio = s.audio := rfl
@[simp] theorem State.getV_skipIf (c : Bool) (r : Nibble) : (s.skipIf c).getV r = s.getV r := rfl
@[simp] theorem State.capacity_skipIf (c : Bool) : (s.skipIf c).capacity = s.capacity := rfl
end

/-- What the port calls answer. -/
@[simp] theorem State.nextByte_answer (s : State) : s.nextByte.1 = Config.freeRandomByte s.rngDraws := rfl
@[simp] theorem State.isPressed_answer (s : State) (key : Nibble) :
    (s.isPressed key).1 = Config.freeKeyPressed s.keyQueries key := rfl

/-! ## The register file -/

theorem State.getV_setV (s : State) (x r : Nibble) (b : Byte) :
    (s.setV x b).getV r = if r = x then b else s.getV r := by
  simp only [State.getV, State.setV, Vector.getElem_set]
  by_cases h : r = x
  · simp [h]
  · rw [if_neg h, if_neg]
    intro e
    exact h (BitVec.eq_of_toNat_eq e.symm)

@[simp] theorem State.getV_setV_self (s : State) (x : Nibble) (b : Byte) : (s.setV x b).getV x = b := by
  simp [State.getV_setV]

theorem State.getV_setV_of_ne (s : State) {x r : Nibble} (b : Byte) (h : r ≠ x) :
    (s.setV x b).getV r = s.getV r := by
  simp [State.getV_setV, h]

@[simp] theorem State.getV_setRegs (s : State) (w : Vector Byte 16) (r : Nibble) :
    (s.setRegs w).getV r = w[r.toNat]'r.isLt := rfl

@[simp] theorem State.stackEntry_setStack (s : State) (k j : Fin 16) (a : Word) :
    (s.setStack k a).stack[j] = if j = k then a else s.stack[j] := by
  simp only [State.stack_setStack, Fin.getElem_fin, Vector.getElem_set, Fin.ext_iff, eq_comm]

/-! ## The sound timer with its port call (R177, R179) -/

@[simp] theorem State.st_setSound (s : State) (b : Byte) : (s.setSound b).st = b := by
  unfold State.setSound; split <;> rfl
theorem State.audio_setSound (s : State) (b : Byte) :
    (s.setSound b).audio = if (s.st == 0) != (b == 0) then (b != 0) :: s.audio else s.audio := by
  unfold State.setSound; split <;> rfl
@[simp] theorem State.v_setSound (s : State) (b : Byte) : (s.setSound b).v = s.v := by
  unfold State.setSound; split <;> rfl
@[simp] theorem State.i_setSound (s : State) (b : Byte) : (s.setSound b).i = s.i := by
  unfold State.setSound; split <;> rfl
@[simp] theorem State.pc_setSound (s : State) (b : Byte) : (s.setSound b).pc = s.pc := by
  unfold State.setSound; split <;> rfl
@[simp] theorem State.dt_setSound (s : State) (b : Byte) : (s.setSound b).dt = s.dt := by
  unfold State.setSound; split <;> rfl
@[simp] theorem State.sp_setSound (s : State) (b : Byte) : (s.setSound b).sp = s.sp := by
  unfold State.setSound; split <;> rfl
@[simp] theorem State.stack_setSound (s : State) (b : Byte) : (s.setSound b).stack = s.stack := by
  unfold State.setSound; split <;> rfl
@[simp] theorem State.mode_setSound (s : State) (b : Byte) : (s.setSound b).mode = s.mode := by
  unfold State.setSound; split <;> rfl
@[simp] theorem State.mem_setSound (s : State) (b : Byte) : (s.setSound b).mem = s.mem := by
  unfold State.setSound; split <;> rfl
@[simp] theorem State.disp_setSound (s : State) (b : Byte) : (s.setSound b).disp = s.disp := by
  unfold State.setSound; split <;> rfl
@[simp] theorem State.cfg_setSound (s : State) (b : Byte) : (s.setSound b).cfg = s.cfg := by
  unfold State.setSound; split <;> rfl
@[simp] theorem State.pending_setSound (s : State) (b : Byte) : (s.setSound b).pending = s.pending := by
  unfold State.setSound; split <;> rfl
@[simp] theorem State.rngDraws_setSound (s : State) (b : Byte) : (s.setSound b).rngDraws = s.rngDraws := by
  unfold State.setSound; split <;> rfl
@[simp] theorem State.keyQueries_setSound (s : State) (b : Byte) : (s.setSound b).keyQueries = s.keyQueries := by
  unfold State.setSound; split <;> rfl
@[simp] theorem State.getV_setSound (s : State) (b : Byte) (r : Nibble) : (s.setSound b).getV r = s.getV r := by
  unfold State.setSound; split <;> rfl
@[simp] theorem State.capacity_setSound (s : State) (b : Byte) : (s.setSound b).capacity = s.capacity := by
  unfold State.setSound; split <;> rfl

end Sys2Proof.Machine
end

