-- ==== Sys2Proof/Laws/Ops.lean ====
section
/-! SUPPORT. One lemma per shared operation that says what it can do, to be cited in place of unfolding it. -/

namespace Sys2Proof.Machine

/-! ## Addresses modulo 4096 -/

@[simp] theorem wrap12_toNat (n : Nat) : (wrap12 n).toNat = n % 4096 := by
  have : n % 4096 < 4096 := Nat.mod_lt _ (by decide)
  simp only [wrap12, memSize, BitVec.toNat_ofNat]
  omega

theorem wrap12_lt (n : Nat) : (wrap12 n).toNat < memSize := by
  rw [wrap12_toNat]
  exact Nat.mod_lt _ (by decide)

@[simp] theorem nextPc_toNat (pc : Word) : (nextPc pc).toNat = (pc.toNat + 2) % 4096 := wrap12_toNat _

@[simp] theorem skipPc_toNat (pc : Word) : (skipPc pc).toNat = (pc.toNat + 4) % 4096 := wrap12_toNat _

theorem addr_setWidth_toNat (a : Addr) : (a.setWidth 16).toNat = a.toNat := by
  have := a.isLt
  simp only [BitVec.toNat_setWidth]
  omega

theorem capacity_le (s : State) : s.capacity ≤ 16 := by
  unfold State.capacity
  cases s.cfg.stackCapacity <;> decide

/-! ## The call stack -/

/-- A push succeeds exactly where SP is below the capacity. -/
theorem State.push_of_room {s : State} (ret : Word) (h : s.sp.toNat < s.capacity) :
    s.push ret = some ((s.setStack (Fin.ofNat 16 s.sp.toNat) ret).setSp (s.sp + 1)) := by
  simp [State.push, h]

theorem State.push_of_full {s : State} (ret : Word) (h : s.capacity ≤ s.sp.toNat) : s.push ret = none := by
  simp [State.push, Nat.not_lt.mpr h]

theorem State.pop_of_live {s : State} (h : s.sp.toNat ≤ s.capacity) :
    s.pop = some (s.stack[Fin.ofNat 16 (s.sp.toNat - 1)], s.setSp (s.sp - 1)) := by
  simp [State.pop, h]

theorem State.pop_of_beyond {s : State} (h : s.capacity < s.sp.toNat) : s.pop = none := by
  simp [State.pop, Nat.not_le.mpr h]

/-! ## Faults and the range check -/

theorem raiseFault_eq_next {c : Cause} {s t : State} :
    raiseFault c s = .next t ↔ t = s.setMode (.halted c s.pc) := by
  simp [raiseFault, eq_comm]

/-- What the range check can do: go on in range, or raise DataAddressFault. -/
theorem State.checkRange_cases {s t : State} {n : Nat} {rest : Result} (h : s.checkRange n rest = .next t) :
    (s.inRange n = true ∧ rest = .next t) ∨
      (s.inRange n = false ∧ t = s.setMode (.halted .dataAddressFault s.pc)) := by
  unfold State.checkRange at h
  cases hr : s.inRange n
  · rw [hr] at h
    exact .inr ⟨rfl, raiseFault_eq_next.mp h⟩
  · rw [hr] at h
    exact .inl ⟨rfl, h⟩

theorem State.checkRange_of_inRange {s : State} {n : Nat} (rest : Result) (h : s.inRange n = true) :
    s.checkRange n rest = rest := by
  simp [State.checkRange, h]

theorem State.checkRange_of_outside {s : State} {n : Nat} (rest : Result) (h : s.inRange n = false) :
    s.checkRange n rest = raiseFault .dataAddressFault s := by
  simp [State.checkRange, h]

theorem State.inRange_iff {s : State} {n : Nat} :
    s.inRange n = true ↔ n = 0 ∨ s.i.toNat + n ≤ 4096 := by
  simp only [State.inRange, Bool.or_eq_true, beq_iff_eq, decide_eq_true_eq]
  unfold State.dataAddr
  omega

/-! ## Data through `I` -/

@[simp] theorem State.readData_length (s : State) (n : Nat) : (s.readData n).length = n := by
  simp [State.readData]

theorem State.readData_getElem (s : State) (n k : Nat) (h : k < (s.readData n).length) :
    (s.readData n)[k] = s.mem.read (s.i.toNat + k) := by
  simp [State.readData, State.dataAddr]

@[simp] theorem State.regsUpTo_length (s : State) (x : Nibble) : (s.regsUpTo x).length = x.toNat + 1 := by
  have := x.isLt
  simp [State.regsUpTo]
  omega

theorem State.regsUpTo_getElem (s : State) (x k : Nibble) (h : k.toNat < (s.regsUpTo x).length) :
    (s.regsUpTo x)[k.toNat] = s.getV k := by
  simp [State.regsUpTo, State.getV]

theorem State.regsFromData_getElem (s : State) (x k : Nibble) :
    (s.regsFromData x)[k.toNat]'k.isLt =
      if k.toNat ≤ x.toNat then s.mem.read (s.i.toNat + k.toNat) else s.getV k := by
  simp [State.regsFromData, State.dataAddr, State.getV]

@[simp] theorem bcdDigits_length (b : Byte) : (bcdDigits b).length = 3 := rfl

/-! ## The display port -/

/-- `xor_pixel` flips its pixel and no other (43_display.md R145). -/
theorem Display.pixel_xorPixel (d : Display) (px qx : Fin 64) (py qy : Fin 32) :
    (d.xorPixel px py).2.pixel qx qy = (d.pixel qx qy ^^ decide (qx = px ∧ qy = py)) := by
  unfold Display.xorPixel Display.pixel
  simp only [Fin.getElem_fin, Vector.getElem_set]
  by_cases hy : py = qy
  · subst hy
    by_cases hx : px = qx
    · subst hx
      simp
    · have hne : ¬ px.val = qx.val := fun e => hx (Fin.ext e)
      have hne' : ¬ qx = px := fun e => hx e.symm
      simp [hne, hne']
  · have hne : ¬ py.val = qy.val := fun e => hy (Fin.ext e)
    have hne' : ¬ qy = py := fun e => hy e.symm
    simp [hne, hne']

@[simp] theorem Display.pixel_blank (px : Fin 64) (py : Fin 32) : Display.blank.pixel px py = false := by
  simp [Display.blank, Display.pixel]

/-! ## Events -/

/-- What a `Tick` leaves in each mode (46_timers.md R178, R180). -/
theorem State.tick_cases (s : State) :
    (s.safe = true ∧ s.tick = (s.setDt (countDown s.dt)).setSound (countDown s.st)) ∨
      (s.safe = false ∧ s.tick = s) := by
  unfold State.tick State.safe
  cases s.mode <;> simp

theorem countDown_toNat (b : Byte) : (countDown b).toNat = b.toNat - 1 := by
  unfold countDown
  split
  · rename_i h
    simp [h]
  · rename_i h
    have hb : 0 < b.toNat := Nat.pos_of_ne_zero fun e => h (BitVec.eq_of_toNat_eq e)
    have := b.isLt
    simp [BitVec.toNat_sub]
    omega

theorem fetchable_iff (pc : Word) : fetchable pc = true ↔ pc.toNat % 2 = 0 ∧ pc.toNat ≤ 0xFFE := by
  simp only [fetchable, Bool.and_eq_true, Bool.not_eq_true', decide_eq_true_eq, BitVec.getLsbD, Nat.testBit_zero]
  simp

end Sys2Proof.Machine
end

