-- ==== Sys2Proof/Laws/PerInstr.lean ====
section
/-! SUPPORT. The family TableRow: the word an instruction encodes to carries the fixed bits of its row of
opcode_table.json (`W & mask = match`), one lemma per constructor. -/

namespace Sys2Proof

theorem append_and {m n : Nat} (a c : BitVec m) (b d : BitVec n) :
    (a ++ b) &&& (c ++ d) = (a &&& c) ++ (b &&& d) := by
  ext i hi
  simp only [BitVec.getElem_and, BitVec.getElem_append]
  split <;> rfl

theorem wordA_and (op mo : Nibble) (a ma : Addr) : wordA op a &&& wordA mo ma = wordA (op &&& mo) (a &&& ma) :=
  append_and op mo a ma

theorem wordI_and (op mo x mx : Nibble) (b mb : Byte) :
    wordI op x b &&& wordI mo mx mb = wordI (op &&& mo) (x &&& mx) (b &&& mb) :=
  (append_and (op ++ x) (mo ++ mx) b mb).trans (congrArg (· ++ _) (append_and op mo x mx))

theorem wordR_and (op mo x mx y my n mn : Nibble) :
    wordR op x y n &&& wordR mo mx my mn = wordR (op &&& mo) (x &&& mx) (y &&& my) (n &&& mn) :=
  (append_and (op ++ x ++ y) (mo ++ mx ++ my) n mn).trans (congrArg (· ++ _)
    ((append_and (op ++ x) (mo ++ mx) y my).trans (congrArg (· ++ _) (append_and op mo x mx))))

namespace Laws.TableRow

/-- The encoded word selects its own row of the opcode table (30_encoding.md, "a word `W` selects the row when
`W & mask = match`"; R86). -/
def Statement (i : Instr) : Prop := encode i &&& tableMask i = tableMatch i

theorem cls : Statement (.cls) := by unfold Statement; decide
theorem ret : Statement (.ret) := by unfold Statement; decide
theorem sys (nnn : Addr) : Statement (.sys nnn) := by
  refine (wordA_and 0x0 0xF nnn 0x000).trans ?_
  simp [tableMatch, wordA]
theorem jp (nnn : Addr) : Statement (.jp nnn) := by
  refine (wordA_and 0x1 0xF nnn 0x000).trans ?_
  simp [tableMatch, wordA]
theorem call (nnn : Addr) : Statement (.call nnn) := by
  refine (wordA_and 0x2 0xF nnn 0x000).trans ?_
  simp [tableMatch, wordA]
theorem seImm (x : Nibble) (nn : Byte) : Statement (.seImm x nn) := by
  refine (wordI_and 0x3 0xF x 0x0 nn 0x00).trans ?_
  simp [tableMatch, wordI]
theorem sneImm (x : Nibble) (nn : Byte) : Statement (.sneImm x nn) := by
  refine (wordI_and 0x4 0xF x 0x0 nn 0x00).trans ?_
  simp [tableMatch, wordI]
theorem seReg (x : Nibble) (y : Nibble) : Statement (.seReg x y) := by
  refine (wordR_and 0x5 0xF x 0x0 y 0x0 0x0 0xF).trans ?_
  simp [tableMatch, wordR]
theorem ldImm (x : Nibble) (nn : Byte) : Statement (.ldImm x nn) := by
  refine (wordI_and 0x6 0xF x 0x0 nn 0x00).trans ?_
  simp [tableMatch, wordI]
theorem addImm (x : Nibble) (nn : Byte) : Statement (.addImm x nn) := by
  refine (wordI_and 0x7 0xF x 0x0 nn 0x00).trans ?_
  simp [tableMatch, wordI]
theorem ldReg (x : Nibble) (y : Nibble) : Statement (.ldReg x y) := by
  refine (wordR_and 0x8 0xF x 0x0 y 0x0 0x0 0xF).trans ?_
  simp [tableMatch, wordR]
theorem orReg (x : Nibble) (y : Nibble) : Statement (.orReg x y) := by
  refine (wordR_and 0x8 0xF x 0x0 y 0x0 0x1 0xF).trans ?_
  simp [tableMatch, wordR]
theorem andReg (x : Nibble) (y : Nibble) : Statement (.andReg x y) := by
  refine (wordR_and 0x8 0xF x 0x0 y 0x0 0x2 0xF).trans ?_
  simp [tableMatch, wordR]
theorem xorReg (x : Nibble) (y : Nibble) : Statement (.xorReg x y) := by
  refine (wordR_and 0x8 0xF x 0x0 y 0x0 0x3 0xF).trans ?_
  simp [tableMatch, wordR]
theorem addReg (x : Nibble) (y : Nibble) : Statement (.addReg x y) := by
  refine (wordR_and 0x8 0xF x 0x0 y 0x0 0x4 0xF).trans ?_
  simp [tableMatch, wordR]
theorem sub (x : Nibble) (y : Nibble) : Statement (.sub x y) := by
  refine (wordR_and 0x8 0xF x 0x0 y 0x0 0x5 0xF).trans ?_
  simp [tableMatch, wordR]
theorem shr (x : Nibble) (y : Nibble) : Statement (.shr x y) := by
  refine (wordR_and 0x8 0xF x 0x0 y 0x0 0x6 0xF).trans ?_
  simp [tableMatch, wordR]
theorem subn (x : Nibble) (y : Nibble) : Statement (.subn x y) := by
  refine (wordR_and 0x8 0xF x 0x0 y 0x0 0x7 0xF).trans ?_
  simp [tableMatch, wordR]
theorem shl (x : Nibble) (y : Nibble) : Statement (.shl x y) := by
  refine (wordR_and 0x8 0xF x 0x0 y 0x0 0xE 0xF).trans ?_
  simp [tableMatch, wordR]
theorem sneReg (x : Nibble) (y : Nibble) : Statement (.sneReg x y) := by
  refine (wordR_and 0x9 0xF x 0x0 y 0x0 0x0 0xF).trans ?_
  simp [tableMatch, wordR]
theorem ldI (nnn : Addr) : Statement (.ldI nnn) := by
  refine (wordA_and 0xA 0xF nnn 0x000).trans ?_
  simp [tableMatch, wordA]
theorem jpV0 (nnn : Addr) : Statement (.jpV0 nnn) := by
  refine (wordA_and 0xB 0xF nnn 0x000).trans ?_
  simp [tableMatch, wordA]
theorem rnd (x : Nibble) (nn : Byte) : Statement (.rnd x nn) := by
  refine (wordI_and 0xC 0xF x 0x0 nn 0x00).trans ?_
  simp [tableMatch, wordI]
theorem drw (x : Nibble) (y : Nibble) (n : Nibble) : Statement (.drw x y n) := by
  refine (wordR_and 0xD 0xF x 0x0 y 0x0 n 0x0).trans ?_
  simp [tableMatch, wordR]
theorem skp (x : Nibble) : Statement (.skp x) := by
  refine (wordI_and 0xE 0xF x 0x0 0x9E 0xFF).trans ?_
  simp [tableMatch, wordI]
theorem sknp (x : Nibble) : Statement (.sknp x) := by
  refine (wordI_and 0xE 0xF x 0x0 0xA1 0xFF).trans ?_
  simp [tableMatch, wordI]
theorem ldVxDt (x : Nibble) : Statement (.ldVxDt x) := by
  refine (wordI_and 0xF 0xF x 0x0 0x07 0xFF).trans ?_
  simp [tableMatch, wordI]
theorem ldVxK (x : Nibble) : Statement (.ldVxK x) := by
  refine (wordI_and 0xF 0xF x 0x0 0x0A 0xFF).trans ?_
  simp [tableMatch, wordI]
theorem ldDtVx (x : Nibble) : Statement (.ldDtVx x) := by
  refine (wordI_and 0xF 0xF x 0x0 0x15 0xFF).trans ?_
  simp [tableMatch, wordI]
theorem ldStVx (x : Nibble) : Statement (.ldStVx x) := by
  refine (wordI_and 0xF 0xF x 0x0 0x18 0xFF).trans ?_
  simp [tableMatch, wordI]
theorem addI (x : Nibble) : Statement (.addI x) := by
  refine (wordI_and 0xF 0xF x 0x0 0x1E 0xFF).trans ?_
  simp [tableMatch, wordI]
theorem ldF (x : Nibble) : Statement (.ldF x) := by
  refine (wordI_and 0xF 0xF x 0x0 0x29 0xFF).trans ?_
  simp [tableMatch, wordI]
theorem ldB (x : Nibble) : Statement (.ldB x) := by
  refine (wordI_and 0xF 0xF x 0x0 0x33 0xFF).trans ?_
  simp [tableMatch, wordI]
theorem dumpRegs (x : Nibble) : Statement (.dumpRegs x) := by
  refine (wordI_and 0xF 0xF x 0x0 0x55 0xFF).trans ?_
  simp [tableMatch, wordI]
theorem restoreRegs (x : Nibble) : Statement (.restoreRegs x) := by
  refine (wordI_and 0xF 0xF x 0x0 0x65 0xFF).trans ?_
  simp [tableMatch, wordI]

end Laws.TableRow

end Sys2Proof
end

