-- ==== Sys2Proof/Laws/Sprite.lean ====
section
/-! SUPPORT. The sprite engine: which pixels a sprite addresses, that none is addressed twice, and what a blit
leaves. -/

namespace Sys2Proof.Machine

theorem mem_rowPixels {x0 y : Nat} {b : Byte} {p : Fin 64 × Fin 32} :
    p ∈ rowPixels x0 y b ↔
      ∃ col < 8, b.getLsbD (7 - col) = true ∧ p.1.val = (x0 + col) % 64 ∧ p.2.val = y % 32 := by
  simp only [rowPixels, List.mem_filterMap, List.mem_range]
  constructor
  · rintro ⟨col, hcol, h⟩
    split at h
    · rename_i hb
      cases h
      exact ⟨col, hcol, hb, rfl, rfl⟩
    · cases h
  · rintro ⟨col, hcol, hb, hx, hy⟩
    refine ⟨col, hcol, ?_⟩
    rw [if_pos hb]
    exact congrArg some (Prod.ext (Fin.ext hx.symm) (Fin.ext hy.symm))

/-- The pixels of a sprite: one for each set bit of each row, wrapped (43_display.md R148). -/
theorem mem_spritePixels {x0 y0 : Nat} {rows : List Byte} {p : Fin 64 × Fin 32} :
    p ∈ spritePixels x0 y0 rows ↔
      ∃ row, ∃ h : row < rows.length, ∃ col < 8,
        rows[row].getLsbD (7 - col) = true ∧ p.1.val = (x0 + col) % 64 ∧ p.2.val = (y0 + row) % 32 := by
  induction rows generalizing y0 with
  | nil => simp [spritePixels]
  | cons b rows ih =>
    simp only [spritePixels, List.mem_append, mem_rowPixels, ih]
    constructor
    · rintro (⟨col, hcol, hb, hx, hy⟩ | ⟨row, hrow, col, hcol, hb, hx, hy⟩)
      · exact ⟨0, by simp, col, hcol, by simpa using hb, hx, by simpa using hy⟩
      · exact ⟨row + 1, by simpa using hrow, col, hcol, by simpa using hb, hx, by
          rw [hy]
          congr 1
          omega⟩
    · rintro ⟨row, hrow, col, hcol, hb, hx, hy⟩
      cases row with
      | zero => exact .inl ⟨col, hcol, by simpa using hb, hx, by simpa using hy⟩
      | succ row =>
        exact .inr ⟨row, by simpa using hrow, col, hcol, by simpa using hb, hx, by
          rw [hy]
          congr 1
          omega⟩

theorem nodup_rowPixels (x0 y : Nat) (b : Byte) : (rowPixels x0 y b).Nodup := by
  refine List.Pairwise.filterMap (R := fun a b : Nat => a < b ∧ b < 8) _ ?_ ?_
  · intro c c' hcc q hq q' hq' e
    subst e
    split at hq
    · split at hq'
      · cases hq
        have hx := congrArg (fun z : Fin 64 × Fin 32 => z.1.val) (Option.some.inj hq')
        simp only [Fin.val_ofNat] at hx
        omega
      · cases hq'
    · cases hq
  · decide

/-- "even with wrapping no pixel is addressed twice in one `DRW`": a sprite has at most 15 rows (R147). -/
theorem nodup_spritePixels (x0 y0 : Nat) (rows : List Byte) (h : rows.length ≤ 32) :
    (spritePixels x0 y0 rows).Nodup := by
  induction rows generalizing y0 with
  | nil => simp [spritePixels]
  | cons b rows ih =>
    simp only [List.length_cons] at h
    refine List.nodup_append.mpr ⟨nodup_rowPixels x0 y0 b, ih (y0 + 1) (by omega), ?_⟩
    intro p hp q hq e
    subst e
    obtain ⟨_, _, _, _, hy⟩ := mem_rowPixels.mp hp
    obtain ⟨row, hrow, _, _, _, _, hy'⟩ := mem_spritePixels.mp hq
    omega

/-- What a blit of distinct pixels leaves: exactly those flipped, and the collision bit set where one of them was set
before (R147, R149). -/
theorem blit_spec (d : Display) (ps : List (Fin 64 × Fin 32)) (c : Bool) (hps : ps.Nodup) :
    (∀ px py, (blit d ps c).1.pixel px py = (d.pixel px py ^^ decide ((px, py) ∈ ps))) ∧
      (blit d ps c).2 = (c || ps.any fun p => d.pixel p.1 p.2) := by
  induction ps generalizing d c with
  | nil => simp [blit]
  | cons p ps ih =>
    obtain ⟨hp, hps⟩ := List.nodup_cons.mp hps
    obtain ⟨hpix, hcol⟩ := ih (d.xorPixel p.1 p.2).2 ((d.xorPixel p.1 p.2).1 || c) hps
    refine ⟨fun px py => ?_, ?_⟩
    · simp only [blit, hpix, Display.pixel_xorPixel, List.mem_cons]
      by_cases e : (px, py) = p
      · subst e
        simp [hp]
      · have e' : ¬ (px = p.1 ∧ py = p.2) := fun h => e (Prod.ext h.1 h.2)
        simp [e, e']
    · have hany : (ps.any fun q => (d.xorPixel p.1 p.2).2.pixel q.1 q.2) = ps.any fun q => d.pixel q.1 q.2 := by
        rw [Bool.eq_iff_iff, List.any_eq_true, List.any_eq_true]
        refine exists_congr fun q => and_congr_right fun hq => ?_
        have e' : ¬ (q.1 = p.1 ∧ q.2 = p.2) := fun h => hp (Prod.ext h.1 h.2 ▸ hq)
        simp [Display.pixel_xorPixel, e']
      have hp1 : (d.xorPixel p.1 p.2).1 = d.pixel p.1 p.2 := rfl
      show (blit _ ps _).2 = _
      rw [hcol, hany, hp1, List.any_cons]
      cases d.pixel p.1 p.2 <;> cases c <;> simp

end Sys2Proof.Machine
end

