-- ==== Sys2Proof/Laws/Step.lean ====
section
/-! SUPPORT. What one step can do, said once: the inversion of `step` for each kind of event and mode. -/

namespace Sys2Proof

theorem decodeTableWord_eq (nbits w : Nat) :
    decodeTableWord nbits w = (decodeWord (tableWord nbits w)).toOption := by
  simp only [decodeTableWord, decodeBytes, wordOfBytes_split]
  cases decodeWord (tableWord nbits w) <;> rfl

namespace Machine

@[simp] theorem State.fetch_takeEvent (s : State) : s.takeEvent.fetch = s.fetch := rfl
@[simp] theorem State.wordAt_takeEvent (s : State) (a : Nat) : s.takeEvent.wordAt a = s.wordAt a := rfl

/-- The three ways a `Step` in Running goes (40_flow.md R100). -/
theorem runInstruction_cases (s : State) :
    (s.fetch = none ∧ runInstruction s = raiseFault .fetchFault s) ∨
      (∃ w miss, s.fetch = some w ∧ decodeWord w = .error miss ∧
        runInstruction s = raiseFault .invalidInstruction s) ∨
      ∃ w ins, s.fetch = some w ∧ decodeWord w = .ok ins ∧ s.fetched = some ins ∧ runInstruction s = exec ins s := by
  unfold runInstruction State.fetched
  cases hf : s.fetch with
  | none => exact .inl ⟨rfl, rfl⟩
  | some w =>
    cases hd : decodeWord w with
    | error miss => exact .inr (.inl ⟨w, miss, rfl, hd, by simp [hd]⟩)
    | ok ins => exact .inr (.inr ⟨w, ins, rfl, hd, by simp [hd, Except.toOption], by simp [hd]⟩)

/-- Everything one step can do, by the event it takes and the mode it finds (00_scope.md R9, 45_keypad.md R171). -/
theorem step_cases (s : State) :
    (s.executes ∧ step s = runInstruction s.takeEvent) ∨
      (∃ x, s.mode = .awaitingKey x ∧ s.nextEvent = .step none ∧ step s = .next s.takeEvent) ∨
      (∃ x key, s.mode = .awaitingKey x ∧ s.nextEvent = .step (some key) ∧
        step s = .next (s.takeEvent.resumeKey x key)) ∨
      (∃ c a k, s.mode = .halted c a ∧ s.nextEvent = .step k ∧ step s = .next s.takeEvent) ∨
      (s.nextEvent = .tick ∧ step s = .next s.takeEvent.tick) ∨
      ∃ program origin, s.nextEvent = .reset program origin ∧
        step s = .next (s.takeEvent.resetTo program origin) := by
  unfold step applyEvent State.executes
  cases he : s.nextEvent with
  | tick => exact .inr (.inr (.inr (.inr (.inl ⟨rfl, rfl⟩))))
  | reset program origin => exact .inr (.inr (.inr (.inr (.inr ⟨program, origin, rfl, rfl⟩))))
  | step k =>
    unfold stepEvent
    rw [State.mode_takeEvent]
    cases hm : s.mode with
    | running => exact .inl ⟨⟨rfl, k, rfl⟩, rfl⟩
    | halted c a => exact .inr (.inr (.inr (.inl ⟨c, a, k, rfl, rfl, rfl⟩)))
    | awaitingKey x =>
      cases k with
      | none => exact .inr (.inl ⟨x, rfl, rfl, rfl⟩)
      | some key => exact .inr (.inr (.inl ⟨x, key, rfl, rfl, rfl⟩))

end Machine

end Sys2Proof
end

