-- ==== Sys2Proof/Tests/Slice0.lean ====
section
/-! SUPPORT. The model's own tests. Expected values are those of spec/95_test_vectors.md (the vector's id stands at
each test), never the model's own answers. The last part shows, for each statement with hypotheses, states and operands
that meet them. -/

namespace Sys2Proof.Tests
open Sys2Proof Sys2Proof.Machine

/-! ## Helpers -/

/-- `s` with the word `w` where the next step fetches it. -/
def running (w : Nat) (s : State := State.reset) : State := s.withFetchWord 16 w

/-- `s` with some registers set. -/
def withV (vs : List (Nibble × Byte)) (s : State := State.reset) : State :=
  vs.foldl (fun t p => t.setV p.1 p.2) s

/-- `s` with bytes stored from `a` upward. -/
def withBytes (a : Nat) (bytes : List Byte) (s : State := State.reset) : State := s.setMem (s.mem.writeBytes a bytes)

/-- `s` with one pixel flipped. -/
def withPixel (px : Fin 64) (py : Fin 32) (s : State := State.reset) : State := s.setDisp (s.disp.xorPixel px py).2

/-- `s` with STACK_CAPACITY 15. -/
def withCapacity15 (s : State := State.reset) : State := { s with cfg := { s.cfg with stackCapacity := .fifteen } }

/-- What one step leaves, looked at through `f`. -/
def after (s : State) (f : State → α) : Option α :=
  match step s with
  | .next t => some (f t)
  | .fault _ => none
  | .refused _ => none

/-- The set pixels of a row, by column. -/
def litRow (t : State) (py : Fin 32) : List (Fin 64) := (List.finRange 64).filter fun px => t.disp.pixel px py

/-! ## WellFormed: the two ill-formed terms of R86 are refused, their neighbours accepted -/

theorem test_wellFormed_sys0E0_refused : (Instr.sys 0x0E0).wellFormed = false := by decide
theorem test_wellFormed_sys0EE_refused : (Instr.sys 0x0EE).wellFormed = false := by decide
theorem test_wellFormed_sys0E1 : (Instr.sys 0x0E1).wellFormed = true := by decide
theorem test_wellFormed_drw : (Instr.drw 0xF 0xF 0xF).wellFormed = true := by decide

/-! ## Decoding: words written out from the encodings of 30_encoding.md R72 to R79 -/

theorem test_decode_group0 :
    decodeWord 0b0000000011100000 = .ok .cls ∧ decodeWord 0b0000000011101110 = .ok .ret ∧
      decodeWord 0b0000001100100001 = .ok (.sys 0x321) ∧ decodeWord 0b0000000011111101 = .ok (.sys 0x0FD) := by decide

/-- Format A: `op nnn`, here nnn = 0x9AC. -/
theorem test_decode_address_forms :
    decodeWord 0b0001100110101100 = .ok (.jp 0x9AC) ∧ decodeWord 0b0010100110101100 = .ok (.call 0x9AC) ∧
      decodeWord 0b1010100110101100 = .ok (.ldI 0x9AC) ∧ decodeWord 0b1011100110101100 = .ok (.jpV0 0x9AC) := by
  decide

/-- Format I: `op x nn`, here x = 5, nn = 0xA3. -/
theorem test_decode_immediate_forms :
    decodeWord 0b0011010110100011 = .ok (.seImm 5 0xA3) ∧ decodeWord 0b0100010110100011 = .ok (.sneImm 5 0xA3) ∧
      decodeWord 0b0110010110100011 = .ok (.ldImm 5 0xA3) ∧ decodeWord 0b0111010110100011 = .ok (.addImm 5 0xA3) ∧
      decodeWord 0b1100010110100011 = .ok (.rnd 5 0xA3) := by decide

/-- Format R: `op x y n`, here x = 2, y = 1 (S13 fixes which nibble is which). -/
theorem test_decode_register_forms :
    decodeWord 0b0101001000010000 = .ok (.seReg 2 1) ∧ decodeWord 0b1001001000010000 = .ok (.sneReg 2 1) ∧
      decodeWord 0b1101001000010111 = .ok (.drw 2 1 7) := by decide

theorem test_decode_alu_forms :
    decodeWord 0b1000001000010000 = .ok (.ldReg 2 1) ∧ decodeWord 0b1000001000010001 = .ok (.orReg 2 1) ∧
      decodeWord 0b1000001000010010 = .ok (.andReg 2 1) ∧ decodeWord 0b1000001000010011 = .ok (.xorReg 2 1) ∧
      decodeWord 0b1000001000010100 = .ok (.addReg 2 1) ∧ decodeWord 0b1000001000010101 = .ok (.sub 2 1) ∧
      decodeWord 0b1000001000010110 = .ok (.shr 2 1) ∧ decodeWord 0b1000001000010111 = .ok (.subn 2 1) ∧
      decodeWord 0b1000001000011110 = .ok (.shl 2 1) := by decide

/-- Format S: `op x selector`, here x = 0xB. -/
theorem test_decode_selector_forms :
    decodeWord 0b1110101110011110 = .ok (.skp 0xB) ∧ decodeWord 0b1110101110100001 = .ok (.sknp 0xB) ∧
      decodeWord 0b1111101100000111 = .ok (.ldVxDt 0xB) ∧ decodeWord 0b1111101100001010 = .ok (.ldVxK 0xB) ∧
      decodeWord 0b1111101100010101 = .ok (.ldDtVx 0xB) ∧ decodeWord 0b1111101100011000 = .ok (.ldStVx 0xB) ∧
      decodeWord 0b1111101100011110 = .ok (.addI 0xB) ∧ decodeWord 0b1111101100101001 = .ok (.ldF 0xB) ∧
      decodeWord 0b1111101100110011 = .ok (.ldB 0xB) ∧ decodeWord 0b1111101101010101 = .ok (.dumpRegs 0xB) ∧
      decodeWord 0b1111101101100101 = .ok (.restoreRegs 0xB) := by decide

/-- "Words that decode to nothing" (V-DEC). -/
theorem test_decode_unmapped :
    [0x5011, 0x5001, 0x9001, 0x8008, 0x8009, 0x800F, 0xE000, 0xE09F, 0xF000, 0xF0FF, 0xF030, 0xF075].all
      (fun w => decodeTableWord 16 w == none) = true := by decide

/-- V-DEC, highest words: encoding gives the word of the table back. -/
theorem test_encode_highest :
    encode (.jp 0xFFF) = 0x1FFF ∧ encode (.seReg 0xF 0xF) = 0x5FF0 ∧ encode (.shl 0xF 0xF) = 0x8FFE ∧
      encode (.skp 0xF) = 0xEF9E ∧ encode (.drw 0xF 0xF 0xF) = 0xDFFF := by decide

/-! ## Control flow (V-FLOW) -/

/-- FL1, FL2. -/
theorem test_sys_FL1 : after (running 0x0000) (·.pc) = some 0x202 := by decide
theorem test_sys_FL2 : after (running 0x0000 (State.reset.setPc 0xFFE)) (·.pc) = some 0x000 := by decide
/-- FL5: the jump succeeds, the next step's fetch raises the fault. -/
theorem test_jp_FL5 : after (running 0x1FFF) (fun t => (t.pc, t.mode)) = some (0xFFF, .running) := by decide
theorem test_fetch_FL5 :
    after (State.reset.setPc 0xFFF) (fun t => (t.pc, t.mode)) = some (0xFFF, .halted .fetchFault 0xFFF) := by
  decide
/-- FL10: the return address wraps. -/
theorem test_call_FL10 :
    after (running 0x2300 ((State.reset.setPc 0xFFE).setStack 0 0x777)) (fun t => (t.stack[0], t.sp, t.pc)) =
      some (0x0000, 1, 0x300) := by decide
/-- FL8, with STACK_CAPACITY 15. -/
theorem test_call_FL8 :
    after (running 0x2300 (withCapacity15 (State.reset.setSp 15))) (fun t => (t.mode, t.sp, t.pc)) =
      some (.halted .stackOverflow 0x200, 15, 0x200) := by decide
/-- FL11, FL12. -/
theorem test_ret_FL11 :
    after (running 0x00EE) (fun t => (t.mode, t.sp, t.pc)) = some (.halted .stackUnderflow 0x200, 0, 0x200) := by
  decide
theorem test_ret_FL12 :
    after (running 0x00EE (((State.reset.setStack 0 0x206).setStack 1 0x30A).setSp 2))
      (fun t => (t.sp, t.pc, t.stack[1])) = some (1, 0x30A, 0x30A) := by decide
/-- FL15, FL14. -/
theorem test_seImm_FL15 : after (running 0x3000 (State.reset.setPc 0xFFE)) (·.pc) = some 0x002 := by decide
theorem test_seImm_FL14 : after (running 0x3001) (·.pc) = some 0x202 := by decide
/-- FL17, FL18. -/
theorem test_sneImm_FL17 : after (running 0x4001) (·.pc) = some 0x204 := by decide
theorem test_sneImm_FL18 : after (running 0x4000) (·.pc) = some 0x202 := by decide
/-- FL19, FL20. -/
theorem test_seReg_FL19 : after (running 0x5120 (withV [(1, 7), (2, 7)])) (·.pc) = some 0x204 := by decide
theorem test_seReg_FL20 : after (running 0x5120 (withV [(1, 7), (2, 8)])) (·.pc) = some 0x202 := by decide
/-- FL22, FL23. -/
theorem test_sneReg_FL22 : after (running 0x9120 (withV [(1, 7), (2, 8)])) (·.pc) = some 0x204 := by decide
theorem test_sneReg_FL23 : after (running 0x9120 (withV [(1, 7), (2, 7)])) (·.pc) = some 0x202 := by decide
/-- FL26, FL27. -/
theorem test_jpV0_FL26 : after (running 0xBFFF (withV [(0, 1)])) (·.pc) = some 0x000 := by decide
theorem test_jpV0_FL27 : after (running 0xB2FF (withV [(0, 0xFF)])) (·.pc) = some 0x3FE := by decide

/-! ## The ALU (V-ALU) -/

theorem test_ldImm_AL1 : after (running 0x6A2B) (fun t => (t.getV 0xA, t.pc)) = some (0x2B, 0x202) := by
  decide
theorem test_addImm_AL2 :
    after (running 0x7002 (withV [(0, 0xFF), (15, 7)])) (fun t => (t.getV 0, t.getV 15)) = some (0x01, 0x07) := by
  decide
theorem test_addImm_AL4 : after (running 0x7F01 (withV [(15, 0xFF)])) (·.getV 15) = some 0x00 := by decide
theorem test_ldReg_AL5 : after (running 0x8010 (withV [(1, 9)])) (fun t => (t.getV 0, t.getV 1)) = some (9, 9) := by
  decide
theorem test_or_AL6 :
    after (running 0x8011 (withV [(0, 0xF0), (1, 0x0F), (15, 9)])) (fun t => (t.getV 0, t.getV 15)) =
      some (0xFF, 9) := by decide
theorem test_and_AL7 :
    after (running 0x8012 (withV [(0, 0xF3), (1, 0x3F), (15, 9)])) (fun t => (t.getV 0, t.getV 15)) =
      some (0x33, 9) := by decide
theorem test_xor_AL8 :
    after (running 0x8013 (withV [(0, 0xFF), (1, 0x0F), (15, 9)])) (fun t => (t.getV 0, t.getV 15)) =
      some (0xF0, 9) := by decide
/-- AL11 (a sum of exactly 255 is no carry), AL13. -/
theorem test_addReg_AL11 :
    after (running 0x8014 (withV [(0, 0x80), (1, 0x7F), (15, 1)])) (fun t => (t.getV 0, t.getV 15)) =
      some (0xFF, 0) := by decide
theorem test_addReg_AL13 : after (running 0x8F14 (withV [(15, 0xFF), (1, 1)])) (·.getV 15) = some 1 := by
  decide
/-- AL17, AL20. -/
theorem test_sub_AL17 :
    after (running 0x8015 (withV [(0, 1), (1, 2), (15, 1)])) (fun t => (t.getV 0, t.getV 15)) = some (0xFF, 0) := by
  decide
theorem test_sub_AL20 : after (running 0x8F15 (withV [(15, 5), (1, 3)])) (·.getV 15) = some 1 := by decide
/-- AL21, AL25. -/
theorem test_shr_AL21 :
    after (running 0x8016 (withV [(0, 0x81), (1, 0xFF)])) (fun t => (t.getV 0, t.getV 1, t.getV 15)) =
      some (0x40, 0xFF, 1) := by decide
theorem test_shr_AL25 : after (running 0x8FF6 (withV [(15, 2)])) (·.getV 15) = some 0 := by decide
/-- AL26, AL28. -/
theorem test_subn_AL26 :
    after (running 0x8017 (withV [(0, 2), (1, 1), (15, 1)])) (fun t => (t.getV 0, t.getV 15)) = some (0xFF, 0) := by
  decide
theorem test_subn_AL28 :
    after (running 0x8017 (withV [(0, 5), (1, 5)])) (fun t => (t.getV 0, t.getV 15)) = some (0, 1) := by
  decide
/-- AL29, AL32. -/
theorem test_shl_AL29 :
    after (running 0x801E (withV [(0, 0x81), (1, 0xFF)])) (fun t => (t.getV 0, t.getV 1, t.getV 15)) =
      some (0x02, 0xFF, 1) := by decide
theorem test_shl_AL32 : after (running 0x8FFE (withV [(15, 0x80)])) (·.getV 15) = some 1 := by decide

/-! ## Random (V-RND), for any answer of the port -/

/-- RN2: the call is still made. -/
theorem test_rnd_RN2 : after (running 0xC300 (withV [(3, 0x55)])) (fun t => (t.rngDraws, t.pc)) = some (1, 0x202) := by
  decide
/-- RN1, with the free byte in place of 0xA7. -/
theorem test_rnd_RN1 : after (running 0xC30F) (·.getV 3) = some (Config.freeRandomByte 0 &&& 0x0F) := by rfl

/-! ## Display (V-DRW) -/

/-- DR14. -/
theorem test_cls_DR14 :
    after (running 0x00E0 (withPixel 0 0 (withPixel 63 31 (withV [(15, 1)]))))
      (fun t => (litRow t 0, litRow t 31, t.getV 15)) = some ([], [], 1) := by decide
/-- DR6 (the bit order, a collision), DR5 (the wrap downward). -/
theorem test_drw_DR6 :
    after (running 0xD011 (withPixel 2 0 (withBytes 0x300 [0xA0] (State.reset.setI 0x300))))
      (fun t => (litRow t 0, t.getV 15, t.i)) = some ([0], 1, 0x300) := by decide
theorem test_drw_DR5 :
    after (running 0xD012 (withV [(1, 31)] (withBytes 0x300 [0x80, 0x80] (State.reset.setI 0x300))))
      (fun t => (litRow t 31, litRow t 0, t.getV 15)) = some ([0], [0], 0) := by decide

/-! ## Address register and memory (V-MEM) -/

theorem test_ldI_ME1 : after (running 0xA234) (fun t => (t.i, t.pc)) = some (0x234, 0x202) := by decide
theorem test_addI_ME5 :
    after (running 0xF01E (withV [(0, 1), (15, 5)] (State.reset.setI 0xFFF))) (fun t => (t.i, t.getV 15)) =
      some (0x000, 5) := by decide
theorem test_ldF_ME8 : after (running 0xF029 (withV [(0, 0x1A)])) (·.i) = some 0x032 := by decide
theorem test_ldF_ME9 :
    after (running 0xF029 (withV [(0, 0x0F)] { State.reset with cfg := { Config.standard with fontBase := 0x050 } }))
      (·.i) = some 0x09B := by decide
/-- ME16, ME19. -/
theorem test_ldB_ME16 :
    after (running 0xF033 (withV [(0, 156)] (State.reset.setI 0x300)))
      (fun t => (t.mem.read 0x300, t.mem.read 0x301, t.mem.read 0x302)) = some (1, 5, 6) := by decide
theorem test_ldB_ME19 :
    after (running 0xF033 (withV [(0, 255)] (State.reset.setI 0xFFE)))
      (fun t => (t.mode, t.mem.read 0xFFE, t.mem.read 0xFFF)) =
      some (.halted .dataAddressFault 0x200, 0, 0) := by decide
/-- ME22, ME23. -/
theorem test_dump_ME22 :
    after (running 0xF055 (withV [(0, 0xAA)] (State.reset.setI 0xFFF))) (fun t => (t.mem.read 0xFFF, t.pc)) =
      some (0xAA, 0x202) := by decide
theorem test_dump_ME23 :
    after (running 0xF155 (withV [(0, 0xAA)] (State.reset.setI 0xFFF))) (fun t => (t.mem.read 0xFFF, t.mode)) =
      some (0x00, .halted .dataAddressFault 0x200) := by decide
/-- ME24. -/
theorem test_restore_ME24 :
    after (running 0xF265 (withV [(3, 0x99)] (withBytes 0x300 [1, 5, 6, 7] (State.reset.setI 0x300))))
      (fun t => (t.getV 0, t.getV 1, t.getV 2, t.getV 3, t.i)) = some (1, 5, 6, 0x99, 0x300) := by decide

/-! ## Keypad (V-KEY), for either answer of the port -/

/-- KE1, KE2, KE5. -/
theorem test_skp_KE5 :
    after (running 0xE29E (withV [(2, 0x15)])) (·.pc) =
      some (if Config.freeKeyPressed 0 5 then 0x204 else 0x202) := by rfl
/-- KE3, KE4. -/
theorem test_sknp_KE3 :
    after (running 0xE2A1 (withV [(2, 5)])) (·.pc) =
      some (if !Config.freeKeyPressed 0 5 then 0x204 else 0x202) := by rfl
/-- KE7: a key passed to the step that enters the wait is not consumed. -/
theorem test_ldVxK_KE7 :
    after (running 0xF30A (withV [(3, 0x44)] (State.reset.setPending [.step (some 7)])))
      (fun t => (t.mode, t.pc, t.getV 3)) = some (.awaitingKey 3, 0x200, 0x44) := by decide
/-- KE13. -/
theorem test_ldVxK_resume_KE13 :
    after (((State.reset.setPc 0xFFE).setMode (.awaitingKey 3)).setPending [.step (some 0xB)])
      (fun t => (t.getV 3, t.pc, t.mode)) = some (0x0B, 0x000, .running) := by decide

/-! ## Timers (V-TIM) -/

theorem test_ldVxDt_TI1 :
    after (running 0xF407 (State.reset.setDt 0x1E)) (fun t => (t.getV 4, t.dt)) = some (0x1E, 0x1E) := by decide
theorem test_ldDtVx_TI2 : after (running 0xF015 (withV [(0, 60)])) (fun t => (t.dt, t.st)) = some (60, 0) := by
  decide
/-- TI4 (no call), TI5 (one call). -/
theorem test_ldStVx_TI4 :
    after (running 0xF118 (withV [(1, 5)] (State.reset.setSt 2))) (fun t => (t.st, t.audio)) = some (5, []) := by
  decide
theorem test_ldStVx_TI5 :
    after (running 0xF118 (withV [(1, 0)] (State.reset.setSt 2))) (fun t => (t.st, t.audio)) = some (0, [false]) := by
  decide
/-- TI7, TI9, TI11. -/
theorem test_tick_TI7 :
    after (((State.reset.setDt 2).setSt 1).setPending [.tick]) (fun t => (t.dt, t.st, t.audio)) =
      some (1, 0, [false]) := by decide
theorem test_tick_TI9 :
    after (State.reset.setPending [.tick]) (fun t => (t.dt, t.st, t.audio)) = some (0, 0, []) := by decide
theorem test_tick_TI11 :
    after ((((State.reset.setDt 9).setSt 9).setMode (.halted .fetchFault 1)).setPending [.tick])
      (fun t => (t.dt, t.st, t.audio)) = some (9, 9, []) := by decide

/-! ## Reset and faults (V-FLT) -/

/-- FA3, FA4. -/
theorem test_reset_FA3 :
    after ((withV [(4, 4)]).setPending [.reset [0x77] 0xFFF])
      (fun t => (t.mode, t.pc, t.mem.read 0xFFF, t.getV 4)) = some (.running, 0xFFF, 0x77, 0) := by decide
theorem test_reset_FA4 :
    after (State.reset.setPending [.reset [0x77, 0x88] 0xFFF]) (fun t => (t.mode, t.mem.read 0xFFF)) =
      some (.halted .loadFault 0xFFF, 0) := by decide
/-- FA9: the fetch check comes first. -/
theorem test_fetch_FA9 :
    after (withBytes 0x201 [0x50, 0x01] (State.reset.setPc 0x201)) (·.mode) =
      some (.halted .fetchFault 0x201) := by decide
/-- V-DEC: an unmapped word executed at 0x200. -/
theorem test_unmapped_executed :
    after (running 0x5011) (fun t => (t.mode, t.pc)) = some (.halted .invalidInstruction 0x200, 0x200) := by
  decide
/-- The canonical form: a byte written and written back to zero leaves the same data. -/
theorem test_memory_canonical :
    ((Memory.write [] 5 9).write 3 1).write 5 0 = [(3, 1)] ∧ (((Memory.write [] 5 9).write 3 1)).wf = true := by decide

/-! ## Witnesses: states and operands that meet the hypotheses of the statements, at the boundaries of their ranges -/

/-- A state with every kind of part in use, neither reset nor halted, at which the invariant holds. -/
def busy : State :=
  withV [(0, 0x12), (15, 1)] (withBytes 0xFFF [0x33]
    ((((((State.reset.setPc 0xFFE).setI 0xFFF).setDt 9).setSt 1).setStack 0 0xFFF).setSp 1))

/-- The end of a run: `JP` to itself at the lowest address a jump can reach, timers running. -/
def finished : State := ((running 0x1000 (State.reset.setPc 0)).setDt 2).setSt 1

/-- The key wait of KE8 to KE10: `LD V3, K` at 0x200. -/
def waiting : State := (running 0xF30A).setMode (.awaitingKey 3)

theorem busy_inv : busy.Inv :=
  { pc_lt := by decide, i_lt := by decide, stack_lt := by decide, sp_le := by decide, halted_at_pc := by decide,
    mem_wf := by decide, cfg_wf := by decide }

theorem witness_DecodeInvertsEncode :
    (Instr.sys 0x0ED).wellFormed = true ∧ decodeWord 0x8F04 = .ok (.addReg 0xF 0) := by decide

theorem witness_EncodeInvertsDecode : decodeWord 0xA234 = .ok (.ldI 0x234) := by decide

/-- Any key, at the highest fetchable `pc`. -/
theorem witness_StepRunsTheDecodedInstruction :
    let s := (running 0x3000 (State.reset.setPc 0xFFE)).setPending [.step (some 9)]
    s.nextEvent = .step (some 9) ∧ s.mode = .running ∧ s.pc.toNat % 2 = 0 ∧ s.pc.toNat ≤ 0xFFE ∧
      decodeWord (wordOfBytes (s.mem.read s.pc.toNat) (s.mem.read (s.pc.toNat + 1))) = .ok (.seImm 0 0) := by decide

theorem witness_PlacedWordIsTheOneExecuted : decodeTableWord 16 0x12FF = some (.jp 0x2FF) := by decide

theorem witness_OddPcRaisesFetchFault :
    (let s := State.reset.setPc 0x201
     s.nextEvent = .step none ∧ s.mode = .running ∧ s.pc.toNat % 2 = 1) ∧
    (let s := (State.reset.setPc 0x1000).setPending [.step (some 0)]
     s.nextEvent = .step (some 0) ∧ s.mode = .running ∧ s.pc.toNat > 0xFFE) := by decide

theorem witness_UnmappedWordRaisesInvalidInstruction :
    (running 0x5001).nextEvent = .step none ∧ (running 0x5001).mode = .running ∧
      (running 0x5001).fetch = some 0x5001 ∧ decodeWord 0x5001 = .error .group5NonzeroNibble ∧
      after (running 0x5001) (·.mode) = some (.halted .invalidInstruction 0x200) ∧
      Mode.halted .invalidInstruction 0x200 ≠ (running 0x5001).mode := by decide

theorem witness_HaltedAbsorbsStepAndTick :
    let s := State.reset.setMode (.halted .stackUnderflow 0x200)
    s.mode = .halted .stackUnderflow 0x200 ∧ (s.setPending [.tick]).nextEvent = .tick ∧
      (s.setPending [.step (some 4)]).nextEvent = .step (some 4) ∧
      after (s.setPending [.reset [0x12] 0xFFF]) (·.mode) = some .running := by decide

theorem witness_KeyReportResumesTheWait :
    waiting.mode = .awaitingKey 3 ∧ waiting.nextEvent = .step none ∧
      (waiting.setPending [.step (some 0)]).nextEvent = .step (some 0) ∧
      (waiting.setPending [.step (some 0xF)]).nextEvent = .step (some 0xF) := by decide

/-- Both modes; ST at 1 and at 0; a `Step` that changes each timer. -/
theorem witness_TickCountsTheTimersDown :
    (let s := busy.setPending [.tick]
     s.nextEvent = .tick ∧ s.mode = .running ∧ s.st = 1) ∧
    (let s := (waiting.setDt 255).setPending [.tick]
     s.nextEvent = .tick ∧ s.mode = .awaitingKey 3 ∧ s.st = 0) ∧
    after (running 0xF015 busy) (·.dt) = some 0x12 ∧ busy.dt ≠ 0x12 ∧
    after (running 0xF018 busy) (·.st) = some 0x12 ∧ busy.st ≠ 0x12 := by decide

/-- The highest program that fits (FA3), without and with a font. -/
theorem witness_ResetEventZeroesAndLoads :
    let s := busy.setPending [.reset [0x77] 0xFFF, .tick]
    let f := { s with cfg := { Config.standard with fontBase := 0xFB0, fontImage := some Config.conventionalFont } }
    s.nextEvent = .reset [0x77] 0xFFF ∧ f.nextEvent = .reset [0x77] 0xFFF ∧
      (0xFFF : Addr).toNat + [(0x77 : Byte)].length ≤ 4096 ∧
      after s (fun t => (t.mem.read 0xFFF, t.getV 0, t.pending)) = some (0x77, 0, [.tick]) := by decide

/-- FA4, with only `Step` and `Tick` events to come. -/
theorem witness_ProgramThatDoesNotFitNeverRuns :
    let s := busy.setPending [.reset [0x77, 0x88] 0xFFF, .step none, .tick]
    s.nextEvent = .reset [0x77, 0x88] 0xFFF ∧ (0xFFF : Addr).toNat + [(0x77 : Byte), 0x88].length > 4096 ∧
      after s (fun t => (t.pending, t.pc, t.getV 0, t.mem.read 0xFFF)) = some ([.step none, .tick], 0xFFF, 0, 0) := by
  decide

/-- One event of each kind from a state of the invariant. -/
theorem witness_EveryStepKeepsTheInvariant : busy.Inv ∧ after busy (·.pc) = some 0x000 := ⟨busy_inv, by decide⟩

theorem witness_EveryEventHasAnOutcome : busy.Inv := busy_inv

/-- The wait is entered, and goes on over a `Tick`. -/
theorem witness_LatchedRegisterIsTheWaitingWords :
    (waiting.mode = .awaitingKey 3 ∧ waiting.fetch = some (wordI 0xF 3 0x0A) ∧
      after (waiting.setPending [.tick]) (·.mode) = some (.awaitingKey 3)) ∧
    ((running 0xF30A).mode = .running ∧ after (running 0xF30A) (·.mode) = some (.awaitingKey 3)) := by decide

theorem executes_running (w : Nat) : (running w).executes := ⟨rfl, none, rfl⟩

theorem witness_FaultsArePrecise :
    (running 0x00EE).executes ∧ after (running 0x00EE) (·.mode) = some (.halted .stackUnderflow 0x200) :=
  ⟨executes_running _, by decide⟩

/-- One change for each line of the statement. -/
theorem witness_ModeChangesOnlyAsTheTableSays :
    after ((State.reset.setMode (.halted .fetchFault 1)).setPending [.reset [] 0x200]) (·.mode) = some .running ∧
      after (State.reset.setPending [.reset [0, 0] 0xFFF]) (·.mode) = some (.halted .loadFault 0xFFF) ∧
      after (running 0xF30A) (·.mode) = some (.awaitingKey 3) ∧
      after (running 0xE000) (·.mode) = some (.halted .invalidInstruction 0x200) ∧
      after (waiting.setPending [.step (some 2)]) (·.mode) = some .running := by decide

theorem witness_ParametersAreFixedAndEventsTakenInOrder :
    after (busy.setPending [.tick, .step none]) (·.pending) = some [.step none] := by decide

/-- An instruction that writes, and one that raises a fault. -/
theorem witness_InstructionsWriteOnlyWhatTheTableGivesThem :
    exec (.ldI 0x300) busy = .next ((busy.setI 0x300).setPc 0x000) ∧
      exec (.ldB 0) busy = .next (busy.setMode (.halted .dataAddressFault 0xFFE)) := ⟨rfl, rfl⟩

/-- A reset with the tone on, a transition and none. -/
theorem witness_ToneIsReportedExactlyOnTransitions :
    after (busy.setPending [.reset [] 0x200]) (fun t => (t.audio, t.st)) = some ([], 0) ∧
      after (busy.setPending [.tick]) (fun t => (t.audio, t.st)) = some ([false], 0) ∧
      after (busy.setPending [.step none]) (fun t => (t.audio, t.st)) = some ([], 1) := by decide

theorem witness_PortsAreCalledOncePerInstruction :
    (running 0xC300).executes ∧ (running 0xC300).fetched = some (.rnd 3 0) ∧
      after (running 0xC300) (·.rngDraws) = some 1 ∧
      (running 0xE29E).executes ∧ (running 0xE29E).fetched = some (.skp 2) ∧
      (running 0xE2A1).fetched = some (.sknp 2) ∧ after (running 0xE2A1) (·.keyQueries) = some 1 :=
  ⟨executes_running _, by decide, by decide, executes_running _, by decide, by decide, by decide⟩

/-- The lowest address, and the highest at which a jump can stand. -/
theorem witness_EndOfRunIsAFixedPoint :
    (finished.atEnd ∧ finished.pc.toNat % 2 = 0 ∧ finished.pc.toNat ≤ 0xFFE ∧ finished.nextEvent = .step none ∧
      (finished.setPending [.tick]).atEnd ∧ (finished.setPending [.tick]).nextEvent = .tick) ∧
    (let s := running 0x1FFE (State.reset.setPc 0xFFE)
     s.atEnd ∧ s.pc.toNat % 2 = 0 ∧ s.pc.toNat ≤ 0xFFE) := by
  refine ⟨⟨⟨rfl, by decide⟩, by decide, by decide, by decide, ⟨rfl, by decide⟩, by decide⟩, ⟨rfl, by decide⟩, by decide,
    by decide⟩

/-- An empty stack and one entry left, for either capacity. -/
theorem witness_CallPushesTheReturnAddress :
    (State.reset.sp.toNat < State.reset.capacity ∧ State.reset.sp.toNat < 16) ∧
    (let s := State.reset.setSp 15
     s.sp.toNat < s.capacity ∧ s.sp.toNat < 16) ∧
    (let s := withCapacity15 (State.reset.setSp 14)
     s.sp.toNat < s.capacity ∧ s.sp.toNat < 16) := by decide

theorem witness_CallOnFullStackRaisesStackOverflow :
    (State.reset.setSp 16).sp.toNat ≥ (State.reset.setSp 16).capacity ∧
      (withCapacity15 (State.reset.setSp 15)).sp.toNat ≥ (withCapacity15 (State.reset.setSp 15)).capacity ∧
      (State.reset.setSp 31).sp.toNat ≥ (State.reset.setSp 31).capacity := by decide

theorem witness_RetPopsTheReturnAddress :
    (0 < busy.sp.toNat ∧ busy.sp.toNat ≤ busy.capacity ∧ busy.sp.toNat - 1 < 16) ∧
    (let s := State.reset.setSp 16
     0 < s.sp.toNat ∧ s.sp.toNat ≤ s.capacity ∧ s.sp.toNat - 1 < 16) := by decide

theorem witness_RetOnEmptyStackRaisesStackUnderflow :
    State.reset.sp = 0 ∧ (State.reset.setSp 17).sp.toNat > (State.reset.setSp 17).capacity ∧
      (withCapacity15 (State.reset.setSp 16)).sp.toNat > (withCapacity15 (State.reset.setSp 16)).capacity := by decide

/-- The hypothesis of `SkipsAreNotCumulative` holds of all six skips. -/
theorem witness_SkipsAreNotCumulative :
    (∃ x nn, Instr.seImm 3 7 = .seImm x nn ∨ Instr.seImm 3 7 = .sneImm x nn) ∧
      (∃ x nn, Instr.sneImm 3 7 = .seImm x nn ∨ Instr.sneImm 3 7 = .sneImm x nn) ∧
      (∃ x y, Instr.seReg 3 7 = .seReg x y ∨ Instr.seReg 3 7 = .sneReg x y) ∧
      (∃ x y, Instr.sneReg 3 7 = .seReg x y ∨ Instr.sneReg 3 7 = .sneReg x y) ∧
      (∃ x, Instr.skp 3 = .skp x ∨ Instr.skp 3 = .sknp x) ∧ ∃ x, Instr.sknp 3 = .skp x ∨ Instr.sknp 3 = .sknp x :=
  ⟨⟨3, 7, .inl rfl⟩, ⟨3, 7, .inr rfl⟩, ⟨3, 7, .inl rfl⟩, ⟨3, 7, .inr rfl⟩, ⟨3, .inl rfl⟩, ⟨3, .inr rfl⟩⟩

/-- For the five flag-writing instructions: a destination that is not VF. -/
theorem witness_flag_destinations : (0 : Nibble) ≠ vf ∧ (0xE : Nibble) ≠ vf := by decide

theorem witness_RndMasksTheDrawnByte : (0x0F : Byte).getLsbD 7 = false := by decide

/-- Height 0 at the top of memory, the highest sprite that fits, and a covered pixel. -/
theorem witness_DrwFlipsExactlyTheCoveredPixels :
    ((0 : Nibble) = 0 ∧ (State.reset.setI 0xFFF).i.toNat = 0xFFF) ∧
      (State.reset.setI 0xFF1).i.toNat + (0xF : Nibble).toNat ≤ 4096 ∧
      (withBytes 0x300 [0x80] (State.reset.setI 0x300)).spriteCovers 3 2 1 3 2 :=
  ⟨by decide, by decide, 0, by decide, 0, by decide, by decide, by decide, by decide⟩

/-- A sprite whose one row covers (3, 2), with that pixel set, and with every pixel clear. -/
theorem witness_CollisionIsAPixelTurnedOff :
    (let s := withV [(0, 3), (1, 2)] (withPixel 3 2 (withBytes 0x300 [0x80] (State.reset.setI 0x300)))
     s.i.toNat + (1 : Nibble).toNat ≤ 4096 ∧ s.spriteCovers (s.getV 0) (s.getV 1) 1 3 2 ∧
       s.disp.pixel 3 2 = true ∧ after (running 0xD011 s) (·.getV vf) = some 1) ∧
    (let s := withV [(15, 1)] (withBytes 0x300 [0x80] (State.reset.setI 0x300))
     s.i.toNat + (1 : Nibble).toNat ≤ 4096 ∧ (∀ px py, s.disp.pixel px py = false) ∧
       after (running 0xD011 s) (·.getV vf) = some 0) := by
  refine ⟨⟨by decide, ⟨0, by decide, 0, by decide, by decide, by decide, by decide⟩, by decide, by decide⟩, by decide,
    ?_, by decide⟩
  intro px py
  exact Display.pixel_blank px py

/-- The highest legal bases (ME18, ME20, DR11). -/
theorem witness_LdBStoresDecimalDigits : (State.reset.setI 0xFFD).i.toNat + 2 ≤ 0xFFF := by decide
theorem witness_DumpStoresRegisters : (State.reset.setI 0xFF0).i.toNat + (0xF : Nibble).toNat ≤ 0xFFF := by decide
theorem witness_RestoreLoadsRegisters : (State.reset.setI 0xFFF).i.toNat + (0 : Nibble).toNat ≤ 0xFFF := by decide

/-- The lowest bases that fault (DR10, ME19, ME21, ME25). -/
theorem witness_AccessPastTheTopRaisesDataAddressFault :
    ((2 : Nibble) ≠ 0 ∧ (State.reset.setI 0xFFF).i.toNat + (2 : Nibble).toNat - 1 > 0xFFF) ∧
      (State.reset.setI 0xFFE).i.toNat + 2 > 0xFFF ∧
      (State.reset.setI 0xFF1).i.toNat + (0xF : Nibble).toNat > 0xFFF ∧
      (State.reset.setI 0xFFF).i.toNat + (1 : Nibble).toNat > 0xFFF := by decide

/-- KE5: the register holds more than 15. -/
theorem witness_KeySkipsFollowTheAnswer : (5 : Nibble).toNat = ((withV [(2, 0x15)]).getV 2).toNat % 16 := by decide

/-- Each clause: off to on, on to off, and no change of level. -/
theorem witness_SoundTimerSetReportsTheTone :
    (State.reset.st = 0 ∧ (withV [(1, 5)]).getV 1 ≠ 0) ∧
      ((State.reset.setSt 2).st ≠ 0 ∧ (State.reset.setSt 2).getV 1 = 0) ∧
      ((busy.st = 0 ↔ busy.getV 0 = 0) ∧ busy.st ≠ 0) ∧ (State.reset.st = 0 ↔ State.reset.getV 1 = 0) := by decide

end Sys2Proof.Tests
end

section
/-! PROOFS. 00_scope.md: every event has an outcome (R8); no event changes the machine's parameters, and each takes one
event from the queue (R5, R11). -/

namespace Sys2Proof.Machine

/-! ## The two call-stack instructions, by what SP allows -/

/-- What `RET` does (40_flow.md R103): the last case is a state no run reaches (10_state.md R30). -/
theorem execRet_cases (s : State) :
    (s.sp = 0 ∧ execRet s = raiseFault .stackUnderflow s) ∨
      (s.sp ≠ 0 ∧ s.sp.toNat ≤ s.capacity ∧
        execRet s = .next ((s.setSp (s.sp - 1)).setPc s.stack[Fin.ofNat 16 (s.sp.toNat - 1)])) ∨
      (s.sp ≠ 0 ∧ s.capacity < s.sp.toNat ∧ execRet s = .fault .noStackEntry) := by
  unfold execRet
  by_cases hzero : s.sp = 0
  · exact .inl ⟨hzero, if_pos hzero⟩
  · rw [if_neg hzero]
    rcases Nat.lt_or_ge s.capacity s.sp.toNat with hbeyond | hlive
    · exact .inr (.inr ⟨hzero, hbeyond, by rw [State.pop_of_beyond hbeyond]⟩)
    · exact .inr (.inl ⟨hzero, hlive, by rw [State.pop_of_live hlive]⟩)

/-- What `CALL` does (40_flow.md R105). -/
theorem execCall_cases (nnn : Addr) (s : State) :
    (s.sp.toNat < s.capacity ∧
      execCall nnn s = .next (((s.setStack (Fin.ofNat 16 s.sp.toNat) (nextPc s.pc)).setSp (s.sp + 1)).setPc
        (nnn.setWidth 16))) ∨
      (s.capacity ≤ s.sp.toNat ∧ execCall nnn s = raiseFault .stackOverflow s) := by
  unfold execCall
  rcases Nat.lt_or_ge s.sp.toNat s.capacity with hroom | hfull
  · exact .inl ⟨hroom, by rw [State.push_of_room _ hroom]⟩
  · exact .inr ⟨hfull, by rw [State.push_of_full _ hfull]⟩

/-! ## Every event answers a next state -/

/-- A range check before an instruction that completes completes, with the fault or without. -/
theorem State.checkRange_next (s u : State) (n : Nat) : ∃ t, s.checkRange n (.next u) = .next t := by
  cases h : s.inRange n
  · exact ⟨_, s.checkRange_of_outside _ h⟩
  · exact ⟨_, s.checkRange_of_inRange _ h⟩

/-- With SP within the capacity every instruction answers a next state: only `RET` ever stops the model. -/
theorem exec_next (ins : Instr) {s : State} (hsp : s.sp.toNat ≤ s.capacity) : ∃ t, exec ins s = .next t := by
  cases ins with
  | ret =>
    rcases execRet_cases s with ⟨-, h⟩ | ⟨-, -, h⟩ | ⟨-, hbeyond, -⟩
    · exact ⟨_, h⟩
    · exact ⟨_, h⟩
    · exact absurd hsp (Nat.not_le.mpr hbeyond)
  | call nnn => rcases execCall_cases nnn s with ⟨-, h⟩ | ⟨-, h⟩ <;> exact ⟨_, h⟩
  | drw | ldB | dumpRegs | restoreRegs => exact s.checkRange_next _ _
  | _ => exact ⟨_, rfl⟩

theorem runInstruction_next {s : State} (hsp : s.sp.toNat ≤ s.capacity) : ∃ t, runInstruction s = .next t := by
  rcases runInstruction_cases s with ⟨-, h⟩ | ⟨_, _, -, -, h⟩ | ⟨_, ins, -, -, -, h⟩
  · exact ⟨_, h⟩
  · exact ⟨_, h⟩
  · rw [h]
    exact exec_next ins hsp

/-- Settles O18: of the invariant it needs only that SP is within the capacity. -/
theorem everyEventHasAnOutcome : Obligations.EveryEventHasAnOutcome := by
  intro s hinv
  rcases step_cases s with ⟨-, h⟩ | ⟨_, -, -, h⟩ | ⟨_, _, -, -, h⟩ | ⟨_, _, _, -, -, h⟩ | ⟨-, h⟩ | ⟨_, _, -, h⟩
  · rw [h]
    exact runInstruction_next (s := s.takeEvent) hinv.sp_le
  all_goals exact ⟨_, h⟩

/-! ## What no instruction and no event writes: the parameters and the rest of the queue -/

/-- `t` has the parameters and the pending events of `s`, the two fields that are neither the block's state nor a record
of its port calls (log entries 1 and 3). -/
def State.sameCfgAndPending (s t : State) : Prop := t.cfg = s.cfg ∧ t.pending = s.pending

theorem State.sameCfgAndPending_of_next {s t u : State} (h : (Host.Outcome.next u : Result) = .next t)
    (hu : s.sameCfgAndPending u) : s.sameCfgAndPending t := by
  cases h
  exact hu

theorem raiseFault_keeps_cfg_pending {c : Cause} {s t : State} (h : raiseFault c s = .next t) :
    s.sameCfgAndPending t :=
  State.sameCfgAndPending_of_next h ⟨rfl, rfl⟩

theorem State.checkRange_keeps_cfg_pending {s t u : State} {n : Nat}
    (h : s.checkRange n (.next u) = .next t) (hu : s.sameCfgAndPending u) : s.sameCfgAndPending t := by
  rcases State.checkRange_cases h with ⟨-, hnext⟩ | ⟨-, rfl⟩
  · exact State.sameCfgAndPending_of_next hnext hu
  · exact ⟨rfl, rfl⟩

theorem exec_keeps_cfg_pending {ins : Instr} {s t : State} (h : exec ins s = .next t) : s.sameCfgAndPending t := by
  cases ins with
  | ret =>
    replace h : execRet s = .next t := h
    rcases execRet_cases s with ⟨-, hs⟩ | ⟨-, -, hs⟩ | ⟨-, -, hs⟩ <;> rw [hs] at h
    · exact raiseFault_keeps_cfg_pending h
    · exact State.sameCfgAndPending_of_next h ⟨rfl, rfl⟩
    · cases h
  | call nnn =>
    replace h : execCall nnn s = .next t := h
    rcases execCall_cases nnn s with ⟨-, hs⟩ | ⟨-, hs⟩ <;> rw [hs] at h
    · exact State.sameCfgAndPending_of_next h ⟨rfl, rfl⟩
    · exact raiseFault_keeps_cfg_pending h
  | drw | ldB | dumpRegs | restoreRegs => exact State.checkRange_keeps_cfg_pending h ⟨rfl, rfl⟩
  | ldStVx x => exact State.sameCfgAndPending_of_next h ⟨s.cfg_setSound _, s.pending_setSound _⟩
  | _ => exact State.sameCfgAndPending_of_next h ⟨rfl, rfl⟩

theorem runInstruction_keeps_cfg_pending {s t : State} (h : runInstruction s = .next t) :
    s.sameCfgAndPending t := by
  rcases runInstruction_cases s with ⟨-, hs⟩ | ⟨_, _, -, -, hs⟩ | ⟨_, _, -, -, -, hs⟩ <;> rw [hs] at h
  · exact raiseFault_keeps_cfg_pending h
  · exact raiseFault_keeps_cfg_pending h
  · exact exec_keeps_cfg_pending h

theorem State.tick_keeps_cfg_pending (s : State) : s.sameCfgAndPending s.tick := by
  rcases s.tick_cases with ⟨-, h⟩ | ⟨-, h⟩ <;> rw [h]
  · exact ⟨State.cfg_setSound _ _, State.pending_setSound _ _⟩
  · exact ⟨rfl, rfl⟩

/-- A `Reset` keeps them too, whether or not its program fits. -/
theorem State.resetTo_keeps_cfg_pending (s : State) (program : List Byte) (origin : Addr) :
    s.sameCfgAndPending (s.resetTo program origin) := by
  unfold State.resetTo
  split <;> exact ⟨rfl, rfl⟩

/-- After any event the parameters and the queue are those of the state with that event taken. -/
theorem step_keeps_cfg_pending {s t : State} (h : step s = .next t) : s.takeEvent.sameCfgAndPending t := by
  rcases step_cases s with ⟨-, hs⟩ | ⟨_, -, -, hs⟩ | ⟨_, _, -, -, hs⟩ | ⟨_, _, _, -, -, hs⟩ | ⟨-, hs⟩ | ⟨_, _, -, hs⟩ <;>
    rw [hs] at h
  · exact runInstruction_keeps_cfg_pending h
  · exact State.sameCfgAndPending_of_next h ⟨rfl, rfl⟩
  · exact State.sameCfgAndPending_of_next h ⟨rfl, rfl⟩
  · exact State.sameCfgAndPending_of_next h ⟨rfl, rfl⟩
  · exact State.sameCfgAndPending_of_next h (State.tick_keeps_cfg_pending _)
  · exact State.sameCfgAndPending_of_next h (State.resetTo_keeps_cfg_pending _ _ _)

/-- Settles O22: nothing an event does writes the two fields, and `takeEvent` is what drops the oldest event. -/
theorem parametersAreFixedAndEventsTakenInOrder : Obligations.ParametersAreFixedAndEventsTakenInOrder := by
  intro s t h
  obtain ⟨hcfg, hpending⟩ := step_keeps_cfg_pending h
  exact ⟨hcfg.trans s.cfg_takeEvent, hpending.trans s.pending_takeEvent⟩

end Sys2Proof.Machine
end

section
/-! PROOFS. The invariant of the machine (10_state.md R23, R24, R29, R30; 20_memory.md R50; 60_exceptions.md R198): it
holds at reset (R40) and every event keeps it. At the end, the values at reset themselves. -/

namespace Sys2Proof.Machine

/-- What holds of the state an operation answers holds of the `t` its outcome is known to be. -/
theorem holds_of_next {P : State → Prop} {t u : State} (h : (Host.Outcome.next u : Result) = .next t) (hu : P u) :
    P t := by
  cases h
  exact hu

/-! ## One rule per operation of the state -/

namespace State.Inv

variable {s : State}

theorem setV (hs : s.Inv) (x : Nibble) (b : Byte) : (s.setV x b).Inv := { hs with }

theorem setRegs (hs : s.Inv) (w : Vector Byte 16) : (s.setRegs w).Inv := { hs with }

theorem setDt (hs : s.Inv) (b : Byte) : (s.setDt b).Inv := { hs with }

theorem setSound (hs : s.Inv) (b : Byte) : (s.setSound b).Inv := by
  unfold State.setSound
  split <;> exact { hs with }

theorem setDisp (hs : s.Inv) (d : Display) : (s.setDisp d).Inv := { hs with }

theorem takeEvent (hs : s.Inv) : s.takeEvent.Inv := { hs with }

theorem nextByte (hs : s.Inv) : s.nextByte.2.Inv := { hs with }

theorem isPressed (hs : s.Inv) (key : Nibble) : (s.isPressed key).2.Inv := { hs with }

theorem setI (hs : s.Inv) {a : Word} (ha : a.toNat < memSize) : (s.setI a).Inv := { hs with i_lt := ha }

theorem setMem (hs : s.Inv) {m : Memory} (hm : m.wf = true) : (s.setMem m).Inv := { hs with mem_wf := hm }

theorem setSp (hs : s.Inv) {n : BitVec 5} (hn : n.toNat ≤ s.capacity) : (s.setSp n).Inv := { hs with sp_le := hn }

theorem setStack (hs : s.Inv) (k : Fin 16) {a : Word} (ha : a.toNat < memSize) : (s.setStack k a).Inv :=
  { hs with
    stack_lt := fun j => by
      rw [State.stackEntry_setStack]
      split
      · exact ha
      · exact hs.stack_lt j }

theorem setMode (hs : s.Inv) {m : Mode} (hm : m.agreesWithPc s.pc = true) : (s.setMode m).Inv :=
  { hs with halted_at_pc := hm }

/-- A halt that records `pc`, as every fault does (60_exceptions.md R198). -/
theorem setHalted (hs : s.Inv) (c : Cause) : (s.setMode (.halted c s.pc)).Inv :=
  hs.setMode (beq_self_eq_true s.pc)

/-- `pc` moves only while no halt records it. -/
theorem setPc (hs : s.Inv) (hsafe : s.safe = true) {a : Word} (ha : a.toNat < memSize) : (s.setPc a).Inv :=
  { hs with
    pc_lt := ha
    halted_at_pc := by
      unfold State.safe at hsafe
      show s.mode.agreesWithPc a = true
      cases hm : s.mode with
      | halted c b =>
        rw [hm] at hsafe
        cases hsafe
      | running | awaitingKey => rfl }

theorem advance (hs : s.Inv) (hsafe : s.safe = true) : s.advance.Inv := hs.setPc hsafe (wrap12_lt _)

theorem skipIf (hs : s.Inv) (hsafe : s.safe = true) (c : Bool) : (s.skipIf c).Inv := by
  cases c
  · exact hs.setPc hsafe (wrap12_lt _)
  · exact hs.setPc hsafe (wrap12_lt _)

/-- Stores inside the address space (20_memory.md R55). -/
theorem writeData (hs : s.Inv) {bytes : List Byte} (hrange : s.inRange bytes.length = true) (hpos : bytes ≠ []) :
    (s.writeData bytes).Inv := by
  rcases State.inRange_iff.mp hrange with hzero | hroom
  · exact absurd (List.length_eq_zero_iff.mp hzero) hpos
  · exact hs.setMem (Memory.writeBytes_wf hs.mem_wf bytes hroom)

end State.Inv

theorem addr_setWidth_lt (a : Addr) : (a.setWidth 16).toNat < memSize := by
  rw [addr_setWidth_toNat]
  exact a.isLt

theorem State.safe_of_running {s : State} (h : s.mode = .running) : s.safe = true := by
  rw [State.safe, h]

theorem State.safe_setRegs (s : State) (w : Vector Byte 16) : (s.setRegs w).safe = s.safe := rfl

theorem State.safe_setSound (s : State) (b : Byte) : (s.setSound b).safe = s.safe := by
  rw [State.safe, State.mode_setSound, ← State.safe]

theorem State.safe_of_awaitingKey {s : State} {x : Nibble} (h : s.mode = .awaitingKey x) : s.safe = true := by
  rw [State.safe, h]

/-! ## Every instruction keeps the invariant -/

theorem raiseFault_keeps_inv {c : Cause} {s t : State} (hs : s.Inv) (h : raiseFault c s = .next t) : t.Inv :=
  holds_of_next h (hs.setHalted c)

theorem State.checkRange_keeps_inv {s t u : State} {n : Nat} (hs : s.Inv) (h : s.checkRange n (.next u) = .next t)
    (hu : s.inRange n = true → u.Inv) : t.Inv := by
  rcases State.checkRange_cases h with ⟨hrange, hnext⟩ | ⟨-, rfl⟩
  · exact holds_of_next hnext (hu hrange)
  · exact hs.setHalted _

theorem execRet_keeps_inv {s t : State} (hs : s.Inv) (hsafe : s.safe = true) (h : execRet s = .next t) : t.Inv := by
  rcases execRet_cases s with ⟨-, hr⟩ | ⟨hne, hlive, hr⟩ | ⟨-, -, hr⟩ <;> rw [hr] at h
  · exact raiseFault_keeps_inv hs h
  · have hsp : (s.sp - 1).toNat ≤ s.capacity := by
      have := capacity_le s
      bv_omega
    exact holds_of_next h ((hs.setSp hsp).setPc hsafe (hs.stack_lt _))
  · cases h

theorem execCall_keeps_inv {nnn : Addr} {s t : State} (hs : s.Inv) (hsafe : s.safe = true)
    (h : execCall nnn s = .next t) : t.Inv := by
  rcases execCall_cases nnn s with ⟨hroom, hr⟩ | ⟨-, hr⟩ <;> rw [hr] at h
  · have hsp : (s.sp + 1).toNat ≤ s.capacity := by
      have := capacity_le s
      bv_omega
    have hpushed : (s.setStack (Fin.ofNat 16 s.sp.toNat) (nextPc s.pc)).Inv := hs.setStack _ (wrap12_lt _)
    exact holds_of_next h ((hpushed.setSp hsp).setPc hsafe (addr_setWidth_lt nnn))
  · exact raiseFault_keeps_inv hs h

/-- From a state that has not halted, every instruction keeps the invariant. -/
theorem exec_keeps_inv {ins : Instr} {s t : State} (hs : s.Inv) (hsafe : s.safe = true)
    (h : exec ins s = .next t) : t.Inv := by
  cases ins with
  | ret => exact execRet_keeps_inv hs hsafe h
  | call nnn => exact execCall_keeps_inv hs hsafe h
  | sys => exact holds_of_next h (hs.advance hsafe)
  | cls => exact holds_of_next h ((hs.setDisp _).advance hsafe)
  | jp nnn => exact holds_of_next h (hs.setPc hsafe (addr_setWidth_lt nnn))
  | jpV0 => exact holds_of_next h (hs.setPc hsafe (wrap12_lt _))
  | seImm | sneImm | seReg | sneReg => exact holds_of_next h (hs.skipIf hsafe _)
  | skp | sknp => exact holds_of_next h ((hs.isPressed _).skipIf hsafe _)
  | ldImm | addImm | ldReg | orReg | andReg | xorReg | ldVxDt => exact holds_of_next h ((hs.setV _ _).advance hsafe)
  | addReg | sub | shr | subn | shl => exact holds_of_next h (((hs.setV _ _).setV _ _).advance hsafe)
  | rnd => exact holds_of_next h ((hs.nextByte.setV _ _).advance hsafe)
  | ldI nnn => exact holds_of_next h ((hs.setI (addr_setWidth_lt nnn)).advance hsafe)
  | addI | ldF => exact holds_of_next h ((hs.setI (wrap12_lt _)).advance hsafe)
  | ldDtVx => exact holds_of_next h ((hs.setDt _).advance hsafe)
  | ldStVx => exact holds_of_next h ((hs.setSound _).advance ((s.safe_setSound _).trans hsafe))
  | ldVxK => exact holds_of_next h (hs.setMode rfl)
  | drw => exact State.checkRange_keeps_inv hs h fun _ => ((hs.setDisp _).setV _ _).advance hsafe
  | restoreRegs =>
    exact State.checkRange_keeps_inv hs h fun _ => (hs.setRegs _).advance ((s.safe_setRegs _).trans hsafe)
  | ldB =>
    exact State.checkRange_keeps_inv hs h fun hrange =>
      (hs.writeData (bytes := bcdDigits _) hrange (List.cons_ne_nil _ _)).advance hsafe
  | dumpRegs x =>
    refine State.checkRange_keeps_inv hs h fun hrange => (hs.writeData ?_ ?_).advance hsafe
    · rwa [State.regsUpTo_length]
    · exact List.ne_nil_of_length_eq_add_one (s.regsUpTo_length x)

theorem runInstruction_keeps_inv {s t : State} (hs : s.Inv) (hsafe : s.safe = true)
    (h : runInstruction s = .next t) : t.Inv := by
  rcases runInstruction_cases s with ⟨-, hr⟩ | ⟨_, _, -, -, hr⟩ | ⟨_, _, -, -, -, hr⟩ <;> rw [hr] at h
  · exact raiseFault_keeps_inv hs h
  · exact raiseFault_keeps_inv hs h
  · exact exec_keeps_inv hs hsafe h

/-! ## The other events -/

theorem State.Inv.resumeKey {s : State} (hs : s.Inv) (hsafe : s.safe = true) (x key : Nibble) :
    (s.resumeKey x key).Inv :=
  ((hs.setV x _).advance hsafe).setMode rfl

theorem State.Inv.tick {s : State} (hs : s.Inv) : s.tick.Inv := by
  rcases s.tick_cases with ⟨-, h⟩ | ⟨-, h⟩ <;> rw [h]
  · exact (hs.setDt _).setSound _
  · exact hs

/-- The first part of `Reset` needs nothing of the state before but a legal FONT_BASE (70_reset_and_hazards.md R221). -/
theorem State.zeroed_inv {s : State} (hcfg : s.cfg.wf = true) : s.zeroed.Inv where
  pc_lt := addr_setWidth_lt Config.loadOrigin
  i_lt := (by decide : (0 : Word).toNat < memSize)
  stack_lt k := by
    show ((Vector.replicate 16 (0 : Word))[k]).toNat < memSize
    rw [Fin.getElem_fin, Vector.getElem_replicate]
    decide
  sp_le := Nat.zero_le _
  halted_at_pc := rfl
  mem_wf := fontMemory_wf hcfg
  cfg_wf := hcfg

/-- `Reset`, whether or not the program fits: one that does not is never stored (R66). -/
theorem State.resetTo_inv {s : State} (hcfg : s.cfg.wf = true) (program : List Byte) (origin : Addr) :
    (s.resetTo program origin).Inv := by
  have hzeroed : (s.zeroed.setPc (origin.setWidth 16)).Inv :=
    (State.zeroed_inv hcfg).setPc rfl (addr_setWidth_lt origin)
  unfold State.resetTo
  split
  next => exact hzeroed.setHalted .loadFault
  next hfits =>
    exact (hzeroed.setMem (Memory.writeBytes_wf hzeroed.mem_wf program (Nat.not_lt.mp hfits))).setMode rfl

/-- Settles O17: each of the six things a step can do keeps the invariant. -/
theorem everyStepKeepsTheInvariant : Obligations.EveryStepKeepsTheInvariant := by
  intro s t hinv h
  have hs := hinv.takeEvent
  rcases step_cases s with ⟨⟨hrun, -⟩, hr⟩ | ⟨_, -, -, hr⟩ | ⟨x, key, hwait, -, hr⟩ | ⟨_, _, _, -, -, hr⟩ | ⟨-, hr⟩ |
      ⟨program, origin, -, hr⟩ <;> rw [hr] at h
  · exact runInstruction_keeps_inv hs (State.safe_of_running hrun) h
  · exact holds_of_next h hs
  · exact holds_of_next h (hs.resumeKey (State.safe_of_awaitingKey hwait) x key)
  · exact holds_of_next h hs
  · exact holds_of_next h hs.tick
  · exact holds_of_next h (State.resetTo_inv hs.cfg_wf program origin)

/-- Settles O16: the reset state is what the first part of `Reset` leaves with the default parameters. -/
theorem invariantHoldsAtReset : Obligations.InvariantHoldsAtReset := by
  have hzeroed : State.reset.zeroed = State.reset := rfl
  unfold Obligations.InvariantHoldsAtReset
  rw [← hzeroed]
  exact State.zeroed_inv (by decide)

/-- Settles O15: registers and stack entries are replicated zeros, no byte of memory is listed, the display is blank. -/
theorem resetStateHasTheSpecValues : Obligations.ResetStateHasTheSpecValues :=
  ⟨fun r => Vector.getElem_replicate r.isLt, rfl, by decide, rfl, rfl, rfl,
    fun k => Vector.getElem_replicate k.isLt, rfl, Memory.read_nil, Display.pixel_blank⟩

end Sys2Proof.Machine
end

section
/-! PROOFS. The frame of all 35 instructions (10_state.md R38): one rule per operation of the state, then each
instruction by the operations its meaning is made of. -/

namespace Sys2Proof.Machine

/-! ## One rule per operation: if `t` differs from `s` only in `changed`, then so does `t` after an operation on a part
that is in `changed` -/

namespace State

theorem samePart.trans {s t u : State} {p : Part} (hst : s.samePart t p) (htu : t.samePart u p) : s.samePart u p := by
  cases p <;> exact Eq.trans htu hst

namespace onlyChanges

theorem refl (s : State) (changed : Part → Prop) : s.onlyChanges s changed := by
  intro p _
  cases p <;> rfl

variable {s t : State} {changed : Part → Prop}

theorem of_next {u : State} (h : (Host.Outcome.next u : Result) = .next t) (hu : s.onlyChanges u changed) :
    s.onlyChanges t changed :=
  holds_of_next (P := fun v => s.onlyChanges v changed) h hu

theorem trans {u : State} (hst : s.onlyChanges t changed) (htu : t.onlyChanges u changed) :
    s.onlyChanges u changed :=
  fun p hp => (hst p hp).trans (htu p hp)

theorem setV (h : s.onlyChanges t changed) {x : Nibble} (hx : changed (.reg x)) (b : Byte) :
    s.onlyChanges (t.setV x b) changed := by
  refine h.trans fun p hp => ?_
  cases p with
  | reg r => exact t.getV_setV_of_ne b fun (e : r = x) => hp (e ▸ hx)
  | _ => rfl

theorem setRegs (h : s.onlyChanges t changed) {w : Vector Byte 16}
    (hw : ∀ r : Nibble, ¬ changed (.reg r) → w[r.toNat]'r.isLt = t.getV r) :
    s.onlyChanges (t.setRegs w) changed := by
  refine h.trans fun p hp => ?_
  cases p with
  | reg r => exact hw r hp
  | _ => rfl

theorem setI (h : s.onlyChanges t changed) (hi : changed .i) (a : Word) : s.onlyChanges (t.setI a) changed := by
  refine h.trans fun p hp => ?_
  cases p with
  | i => exact absurd hi hp
  | _ => rfl

theorem setPc (h : s.onlyChanges t changed) (hpc : changed .pc) (a : Word) :
    s.onlyChanges (t.setPc a) changed := by
  refine h.trans fun p hp => ?_
  cases p with
  | pc => exact absurd hpc hp
  | _ => rfl

theorem advance (h : s.onlyChanges t changed) (hpc : changed .pc) : s.onlyChanges t.advance changed :=
  h.setPc hpc _

theorem skipIf (h : s.onlyChanges t changed) (hpc : changed .pc) (c : Bool) :
    s.onlyChanges (t.skipIf c) changed :=
  h.setPc hpc _

theorem setDt (h : s.onlyChanges t changed) (hdt : changed .dt) (b : Byte) :
    s.onlyChanges (t.setDt b) changed := by
  refine h.trans fun p hp => ?_
  cases p with
  | dt => exact absurd hdt hp
  | _ => rfl

theorem setSt (h : s.onlyChanges t changed) (hst : changed .st) (b : Byte) :
    s.onlyChanges (t.setSt b) changed := by
  refine h.trans fun p hp => ?_
  cases p with
  | st => exact absurd hst hp
  | _ => rfl

theorem toneCall (h : s.onlyChanges t changed) (haudio : changed .audio) (on : Bool) :
    s.onlyChanges (t.toneCall on) changed := by
  refine h.trans fun p hp => ?_
  cases p with
  | audio => exact absurd haudio hp
  | _ => rfl

theorem setSound (h : s.onlyChanges t changed) (hst : changed .st) (haudio : changed .audio) (b : Byte) :
    s.onlyChanges (t.setSound b) changed := by
  unfold State.setSound
  split
  · exact (h.setSt hst b).toneCall haudio _
  · exact h.setSt hst b

theorem setSp (h : s.onlyChanges t changed) (hsp : changed .sp) (n : BitVec 5) :
    s.onlyChanges (t.setSp n) changed := by
  refine h.trans fun p hp => ?_
  cases p with
  | sp => exact absurd hsp hp
  | _ => rfl

theorem setStack (h : s.onlyChanges t changed) {k : Fin 16} (hk : changed (.stackEntry k)) (a : Word) :
    s.onlyChanges (t.setStack k a) changed := by
  refine h.trans fun p hp => ?_
  cases p with
  | stackEntry j => exact (t.stackEntry_setStack k j a).trans (if_neg fun (e : j = k) => hp (e ▸ hk))
  | _ => rfl

theorem setMode (h : s.onlyChanges t changed) (hmode : changed .mode) (m : Mode) :
    s.onlyChanges (t.setMode m) changed := by
  refine h.trans fun p hp => ?_
  cases p with
  | mode => exact absurd hmode hp
  | _ => rfl

theorem setDisp (h : s.onlyChanges t changed) {d : Display}
    (hd : ∀ px py, ¬ changed (.pixel px py) → d.pixel px py = t.disp.pixel px py) :
    s.onlyChanges (t.setDisp d) changed := by
  refine h.trans fun p hp => ?_
  cases p with
  | pixel px py => exact hd px py hp
  | _ => rfl

theorem nextByte (h : s.onlyChanges t changed) (hrng : changed .rngDraws) :
    s.onlyChanges t.nextByte.2 changed := by
  refine h.trans fun p hp => ?_
  cases p with
  | rngDraws => exact absurd hrng hp
  | _ => rfl

theorem isPressed (h : s.onlyChanges t changed) (hkeys : changed .keyQueries) (key : Nibble) :
    s.onlyChanges (t.isPressed key).2 changed := by
  refine h.trans fun p hp => ?_
  cases p with
  | keyQueries => exact absurd hkeys hp
  | _ => rfl

/-- Stores at `I` and upward reach only the bytes they are made to (20_memory.md R55). -/
theorem writeData (h : s.onlyChanges t changed) {bytes : List Byte}
    (hbytes : ∀ a, t.i.toNat ≤ a → a < t.i.toNat + bytes.length → changed (.memByte a)) :
    s.onlyChanges (t.writeData bytes) changed := by
  refine h.trans fun p hp => ?_
  cases p with
  | memByte a =>
    refine Memory.read_writeBytes_outside _ _ ?_
    by_contra hinside
    exact hp (hbytes a (by unfold State.dataAddr at hinside; omega) (by unfold State.dataAddr at hinside; omega))
  | _ => rfl

end onlyChanges

end State

theorem raiseFault_frame {c : Cause} {s t : State} {changed : Part → Prop} (hmode : changed .mode)
    (h : raiseFault c s = .next t) : s.onlyChanges t changed := by
  rw [raiseFault_eq_next.mp h]
  exact (State.onlyChanges.refl s changed).setMode hmode _

theorem State.checkRange_frame {s t u : State} {n : Nat} {changed : Part → Prop} (hmode : changed .mode)
    (h : s.checkRange n (.next u) = .next t) (hu : s.onlyChanges u changed) : s.onlyChanges t changed := by
  rcases State.checkRange_cases h with ⟨-, hnext⟩ | ⟨-, rfl⟩
  · exact State.onlyChanges.of_next hnext hu
  · exact (State.onlyChanges.refl s changed).setMode hmode _

/-! ## The pixels of `DRW` and the registers of `LD Vx, [I]` -/

/-- The pixels `DRW` calls for are those the sprite at `I` covers (43_display.md R147, R148). -/
theorem mem_spritePixels_readData {s : State} {x0 y0 : Byte} {n : Nibble} {px : Fin 64} {py : Fin 32} :
    (px, py) ∈ spritePixels x0.toNat y0.toNat (s.readData n.toNat) ↔ s.spriteCovers x0 y0 n px py := by
  simp only [mem_spritePixels, State.spriteCovers, State.readData_getElem, State.readData_length, exists_prop]

/-- A pixel the sprite does not cover is as before. -/
theorem blit_readData_of_not_covered {s : State} {x0 y0 : Byte} {n : Nibble} {px : Fin 64} {py : Fin 32}
    (hcover : ¬ s.spriteCovers x0 y0 n px py) :
    (blit s.disp (spritePixels x0.toNat y0.toNat (s.readData n.toNat)) false).1.pixel px py = s.disp.pixel px py := by
  have hrows : (s.readData n.toNat).length ≤ 32 := by
    have := n.isLt
    rw [State.readData_length]
    omega
  rw [(blit_spec s.disp _ false (nodup_spritePixels _ _ _ hrows)).1 px py,
    decide_eq_false (mt mem_spritePixels_readData.mp hcover), Bool.xor_false]

/-- A register above `x` is as before. -/
theorem regsFromData_of_above (s : State) {x k : Nibble} (h : ¬ k.toNat ≤ x.toNat) :
    (s.regsFromData x)[k.toNat]'k.isLt = s.getV k := by
  rw [State.regsFromData_getElem, if_neg h]

/-! ## Every instruction -/

theorem execRet_frame {s t : State} (h : execRet s = .next t) : s.onlyChanges t (Instr.mayWrite .ret s) := by
  rcases execRet_cases s with ⟨-, hr⟩ | ⟨-, -, hr⟩ | ⟨-, -, hr⟩ <;> rw [hr] at h
  · exact raiseFault_frame (.inr (.inl rfl)) h
  · exact State.onlyChanges.of_next h (((State.onlyChanges.refl s _).setSp (.inl rfl) _).setPc nofun _)
  · cases h

theorem execCall_frame {nnn : Addr} {s t : State} (h : execCall nnn s = .next t) :
    s.onlyChanges t (Instr.mayWrite (.call nnn) s) := by
  rcases execCall_cases nnn s with ⟨hroom, hr⟩ | ⟨-, hr⟩ <;> rw [hr] at h
  · have hentry : Instr.mayWrite (.call nnn) s (.stackEntry (Fin.ofNat 16 s.sp.toNat)) :=
      ⟨⟨nnn, rfl⟩, Nat.mod_eq_of_lt (Nat.lt_of_lt_of_le hroom (capacity_le s))⟩
    have hpushed := (State.onlyChanges.refl s _).setStack hentry (nextPc s.pc)
    exact State.onlyChanges.of_next h ((hpushed.setSp (.inr ⟨nnn, rfl⟩) _).setPc nofun _)
  · exact raiseFault_frame (.inr (.inr (.inl ⟨nnn, rfl⟩))) h

theorem execDrw_frame {x y n : Nibble} {s t : State} (h : execDrw x y n s = .next t) :
    s.onlyChanges t (Instr.mayWrite (.drw x y n) s) := by
  refine State.checkRange_frame ?_ h ?_
  · exact .inr (.inr (.inr (.inl ⟨x, y, n, rfl⟩)))
  · have hdrawn : s.onlyChanges _ (Instr.mayWrite (.drw x y n) s) :=
      (State.onlyChanges.refl s _).setDisp fun px py hp =>
        blit_readData_of_not_covered fun hcover => hp (.inr ⟨x, y, n, rfl, hcover⟩)
    exact (hdrawn.setV rfl _).advance nofun

theorem execLdB_frame {x : Nibble} {s t : State} (h : execLdB x s = .next t) :
    s.onlyChanges t (Instr.mayWrite (.ldB x) s) := by
  refine State.checkRange_frame ?_ h ?_
  · exact .inr (.inr (.inr (.inr (.inl ⟨x, rfl⟩))))
  · refine ((State.onlyChanges.refl s _).writeData fun a hlow hhigh => ?_).advance nofun
    rw [bcdDigits_length] at hhigh
    exact .inl ⟨x, rfl, hlow, by omega⟩

theorem execDumpRegs_frame {x : Nibble} {s t : State} (h : execDumpRegs x s = .next t) :
    s.onlyChanges t (Instr.mayWrite (.dumpRegs x) s) := by
  refine State.checkRange_frame ?_ h ?_
  · exact .inr (.inr (.inr (.inr (.inr (.inl ⟨x, rfl⟩)))))
  · refine ((State.onlyChanges.refl s _).writeData fun a hlow hhigh => ?_).advance nofun
    rw [State.regsUpTo_length] at hhigh
    exact .inr ⟨x, rfl, hlow, by omega⟩

theorem execRestoreRegs_frame {x : Nibble} {s t : State} (h : execRestoreRegs x s = .next t) :
    s.onlyChanges t (Instr.mayWrite (.restoreRegs x) s) := by
  refine State.checkRange_frame ?_ h ?_
  · exact .inr (.inr (.inr (.inr (.inr (.inr ⟨x, rfl⟩)))))
  · exact ((State.onlyChanges.refl s _).setRegs fun r hr => regsFromData_of_above s hr).advance nofun

/-- Settles O23: each form by the operations it is made of, each on a part the access table gives it. -/
theorem instructionsWriteOnlyWhatTheTableGivesThem : Obligations.InstructionsWriteOnlyWhatTheTableGivesThem := by
  intro ins s t h
  have hrefl := State.onlyChanges.refl s (Instr.mayWrite ins s)
  cases ins with
  | ret => exact execRet_frame h
  | call nnn => exact execCall_frame h
  | drw x y n => exact execDrw_frame h
  | ldB x => exact execLdB_frame h
  | dumpRegs x => exact execDumpRegs_frame h
  | restoreRegs x => exact execRestoreRegs_frame h
  | sys => exact State.onlyChanges.of_next h (hrefl.advance nofun)
  | cls => exact State.onlyChanges.of_next h ((hrefl.setDisp fun _ _ hp => absurd (.inl rfl) hp).advance nofun)
  | jp | jpV0 => exact State.onlyChanges.of_next h (hrefl.setPc nofun _)
  | seImm | sneImm | seReg | sneReg => exact State.onlyChanges.of_next h (hrefl.skipIf nofun _)
  | skp x => exact State.onlyChanges.of_next h ((hrefl.isPressed (.inl ⟨x, rfl⟩) _).skipIf nofun _)
  | sknp x => exact State.onlyChanges.of_next h ((hrefl.isPressed (.inr ⟨x, rfl⟩) _).skipIf nofun _)
  | ldImm | addImm | ldReg | orReg | andReg | xorReg | ldVxDt =>
    exact State.onlyChanges.of_next h ((hrefl.setV rfl _).advance nofun)
  | addReg | sub | shr | subn | shl =>
    exact State.onlyChanges.of_next h (((hrefl.setV (.inl rfl) _).setV (.inr rfl) _).advance nofun)
  | rnd x nn => exact State.onlyChanges.of_next h (((hrefl.nextByte ⟨x, nn, rfl⟩).setV rfl _).advance nofun)
  | ldI nnn => exact State.onlyChanges.of_next h ((hrefl.setI (.inl ⟨nnn, rfl⟩) _).advance nofun)
  | addI x => exact State.onlyChanges.of_next h ((hrefl.setI (.inr (.inl ⟨x, rfl⟩)) _).advance nofun)
  | ldF x => exact State.onlyChanges.of_next h ((hrefl.setI (.inr (.inr ⟨x, rfl⟩)) _).advance nofun)
  | ldDtVx x => exact State.onlyChanges.of_next h ((hrefl.setDt ⟨x, rfl⟩ _).advance nofun)
  | ldStVx x => exact State.onlyChanges.of_next h ((hrefl.setSound ⟨x, rfl⟩ ⟨x, rfl⟩ _).advance nofun)
  | ldVxK x => exact State.onlyChanges.of_next h (hrefl.setMode (.inl ⟨x, rfl⟩) _)

end Sys2Proof.Machine
end

section
/-! PROOFS. The key wait (10_state.md R32, 45_keypad.md R168): while it lasts, `pc` is at the
`LD Vx, K` that began it. -/

namespace Sys2Proof

section
variable {w : Word} {x : Nibble}

/-! ## Only the word `Fx0A` decodes to `LD Vx, K` (30_encoding.md R74, R79) -/

theorem decodeGroup0_ne_ldVxK : decodeGroup0 w ≠ .ldVxK x := by
  unfold decodeGroup0
  split_ifs <;> nofun

theorem decodeGroup8_ne_ldVxK : decodeGroup8 w ≠ .ok (.ldVxK x) := by
  unfold decodeGroup8
  split <;> nofun

theorem decodeGroupE_ne_ldVxK : decodeGroupE w ≠ .ok (.ldVxK x) := by
  unfold decodeGroupE
  split_ifs <;> nofun

/-- In group F the selector 0x0A alone gives the form, with the word's own `x` (R79). -/
theorem decodeGroupF_eq_ldVxK (h : decodeGroupF w = .ok (.ldVxK x)) : nnField w = 0x0A ∧ xField w = x := by
  unfold decodeGroupF at h
  rcases ite_eq_iff.mp h with ⟨-, ⟨⟩⟩ | ⟨-, h⟩
  rcases ite_eq_iff.mp h with ⟨hsel, ⟨⟩⟩ | ⟨-, h⟩
  · exact ⟨hsel, rfl⟩
  · iterate 7
      rcases ite_eq_iff.mp h with ⟨-, ⟨⟩⟩ | ⟨-, h⟩
    cases h

/-- Every other group gives other forms (R74). -/
theorem opField_of_decodeWord_ldVxK (h : decodeWord w = .ok (.ldVxK x)) : opField w = 0xF := by
  rcases nibble_cases (opField w) with e | e | e | e | e | e | e | e | e | e | e | e | e | e | e | e
  · rw [decodeWord_group0 e] at h
    exact absurd (Except.ok.inj h) decodeGroup0_ne_ldVxK
  · cases (decodeWord_group1 e).symm.trans h
  · cases (decodeWord_group2 e).symm.trans h
  · cases (decodeWord_group3 e).symm.trans h
  · cases (decodeWord_group4 e).symm.trans h
  · rw [decodeWord_group5 e] at h
    split at h <;> cases h
  · cases (decodeWord_group6 e).symm.trans h
  · cases (decodeWord_group7 e).symm.trans h
  · exact absurd ((decodeWord_group8 e).symm.trans h) decodeGroup8_ne_ldVxK
  · rw [decodeWord_group9 e] at h
    split at h <;> cases h
  · cases (decodeWord_groupA e).symm.trans h
  · cases (decodeWord_groupB e).symm.trans h
  · cases (decodeWord_groupC e).symm.trans h
  · cases (decodeWord_groupD e).symm.trans h
  · exact absurd ((decodeWord_groupE e).symm.trans h) decodeGroupE_ne_ldVxK
  · exact e

theorem eq_wordI_of_decodeWord_ldVxK (h : decodeWord w = .ok (.ldVxK x)) : w = wordI 0xF x 0x0A := by
  have hop := opField_of_decodeWord_ldVxK h
  obtain ⟨hnn, rfl⟩ := decodeGroupF_eq_ldVxK ((decodeWord_groupF hop).symm.trans h)
  rw [← hop, ← hnn, wordI_fields]

end

namespace Machine

/-! ## What an event makes of `mode` -/

theorem mode_of_next {t u : State} {m : Mode} (h : (Host.Outcome.next u : Result) = .next t) (hu : u.mode = m) :
    t.mode = m :=
  holds_of_next (P := fun v => v.mode = m) h hu

theorem State.checkRange_mode {s t u : State} {n : Nat} (h : s.checkRange n (.next u) = .next t)
    (hu : u.mode = s.mode) : t.mode = s.mode ∨ ∃ c, t = s.setMode (.halted c s.pc) := by
  rcases State.checkRange_cases h with ⟨-, hnext⟩ | ⟨-, ht⟩
  · exact .inl (mode_of_next hnext hu)
  · exact .inr ⟨_, ht⟩

/-- What an instruction may make of `mode` (45_keypad.md R171): it leaves it, or it changes nothing else, as `LD Vx, K`
does and every fault. -/
theorem exec_mode_cases {ins : Instr} {s t : State} (h : exec ins s = .next t) :
    t.mode = s.mode ∨ (∃ x, ins = .ldVxK x ∧ t = s.setMode (.awaitingKey x)) ∨
      ∃ c, t = s.setMode (.halted c s.pc) := by
  cases ins with
  | ret =>
    replace h : execRet s = .next t := h
    rcases execRet_cases s with ⟨-, hr⟩ | ⟨-, -, hr⟩ | ⟨-, -, hr⟩ <;> rw [hr] at h
    · exact .inr (.inr ⟨_, raiseFault_eq_next.mp h⟩)
    · exact .inl (mode_of_next h rfl)
    · cases h
  | call nnn =>
    replace h : execCall nnn s = .next t := h
    rcases execCall_cases nnn s with ⟨-, hr⟩ | ⟨-, hr⟩ <;> rw [hr] at h
    · exact .inl (mode_of_next h rfl)
    · exact .inr (.inr ⟨_, raiseFault_eq_next.mp h⟩)
  | drw | ldB | dumpRegs => exact (State.checkRange_mode h rfl).imp_right .inr
  | restoreRegs => exact (State.checkRange_mode h ((State.mode_advance _).trans (s.mode_setRegs _))).imp_right .inr
  | ldVxK x => exact .inr (.inl ⟨x, rfl, (Host.Outcome.next.inj h).symm⟩)
  | ldStVx x => exact .inl (mode_of_next h (s.mode_setSound _))
  | _ => exact .inl (mode_of_next h rfl)

/-- A running engine comes to wait for a key only by an `LD Vx, K` at `pc`, which it leaves in place. -/
theorem runInstruction_awaitingKey {s t : State} {x : Nibble} (hrun : s.mode = .running)
    (h : runInstruction s = .next t) (hwait : t.mode = .awaitingKey x) : t.fetch = some (wordI 0xF x 0x0A) := by
  rcases runInstruction_cases s with ⟨-, hr⟩ | ⟨_, _, -, -, hr⟩ | ⟨w, ins, hfetch, hdecode, -, hr⟩ <;> rw [hr] at h
  · rw [raiseFault_eq_next.mp h] at hwait
    cases hwait
  · rw [raiseFault_eq_next.mp h] at hwait
    cases hwait
  · rcases exec_mode_cases h with hsame | ⟨y, rfl, rfl⟩ | ⟨c, rfl⟩
    · rw [hsame, hrun] at hwait
      cases hwait
    · cases hwait
      exact hfetch.trans (congrArg some (eq_wordI_of_decodeWord_ldVxK hdecode))
    · cases hwait

/-- A `Tick` counts the timers and does nothing else to the wait (46_timers.md R178). -/
theorem State.mode_tick (s : State) : s.tick.mode = s.mode := by
  rcases s.tick_cases with ⟨-, h⟩ | ⟨-, h⟩ <;> rw [h]
  exact State.mode_setSound _ _

theorem State.fetch_tick (s : State) : s.tick.fetch = s.fetch := by
  rcases s.tick_cases with ⟨-, h⟩ | ⟨-, h⟩ <;> rw [h]
  rw [State.fetch, State.wordAt, State.pc_setSound, State.mem_setSound]
  rfl

/-- `Reset` ends every wait (70_reset_and_hazards.md R221). -/
theorem State.mode_resetTo_ne_awaitingKey (s : State) (program : List Byte) (origin : Addr) (x : Nibble) :
    (s.resetTo program origin).mode ≠ .awaitingKey x := by
  unfold State.resetTo
  split <;> nofun

/-- Settles O19: a wait is entered by an instruction and kept by the events that leave `pc` and memory. -/
theorem latchedRegisterIsTheWaitingWords : Obligations.LatchedRegisterIsTheWaitingWords := by
  intro s t hlatched h x hwait
  rcases step_cases s with ⟨⟨hrun, -⟩, hr⟩ | ⟨_, -, -, hr⟩ | ⟨_, _, -, -, hr⟩ | ⟨_, _, _, -, -, hr⟩ | ⟨-, hr⟩ |
      ⟨program, origin, -, hr⟩ <;> rw [hr] at h
  · exact runInstruction_awaitingKey (s := s.takeEvent) hrun h hwait
  · cases h
    exact hlatched x hwait
  · cases h
    cases hwait
  · cases h
    exact hlatched x hwait
  · cases h
    rw [State.mode_tick] at hwait
    rw [State.fetch_tick]
    exact hlatched x hwait
  · cases h
    exact absurd hwait (State.mode_resetTo_ne_awaitingKey _ _ _ _)

end Machine

end Sys2Proof
end

section
/-! PROOFS. The two faults of memory: FetchFault at a `pc` without a word to fetch (20_memory.md R53), DataAddressFault
for an access through `I` that would pass 0xFFF (R55). -/

namespace Sys2Proof.Machine

/-- What taking a fault leaves (60_exceptions.md R190, R199). -/
theorem raiseFault_changes_only_mode (c : Cause) (s : State) :
    ∃ t, raiseFault c s = .next t ∧ t.mode = .halted c s.pc ∧ s.onlyChanges t (fun p => p = .mode) :=
  ⟨_, rfl, rfl, raiseFault_frame rfl rfl⟩

/-! ## The fetch -/

theorem State.fetch_eq_none {s : State} (h : s.pc.toNat % 2 = 1 ∨ s.pc.toNat > 0xFFE) : s.fetch = none := by
  refine if_neg fun hfetchable => ?_
  obtain ⟨heven, hroom⟩ := (fetchable_iff s.pc).mp hfetchable
  omega

theorem runInstruction_of_fetch_none {s : State} (h : s.fetch = none) :
    runInstruction s = raiseFault .fetchFault s := by
  rw [runInstruction, h]

theorem step_of_running {s : State} {k : Option Nibble} (hevent : s.nextEvent = .step k) (hrun : s.mode = .running) :
    step s = runInstruction s.takeEvent := by
  rw [step, hevent, applyEvent, stepEvent, State.mode_takeEvent, hrun]

/-- Settles O8: the fetch finds no word, whatever the bytes, and the fault is all that happens. -/
theorem oddPcRaisesFetchFault : Obligations.OddPcRaisesFetchFault := by
  intro s k hevent hrun hpc
  have hfetch : s.takeEvent.fetch = none := s.fetch_takeEvent.trans (State.fetch_eq_none hpc)
  rw [step_of_running hevent hrun, runInstruction_of_fetch_none hfetch]
  exact raiseFault_changes_only_mode .fetchFault s.takeEvent

/-! ## The data accesses -/

theorem State.inRange_eq_false {s : State} {n : Nat} (hpos : n ≠ 0) (hpast : s.i.toNat + n > 4096) :
    s.inRange n = false := by
  refine Bool.eq_false_iff.mpr fun hrange => ?_
  rcases State.inRange_iff.mp hrange with hzero | hroom
  · exact hpos hzero
  · exact absurd hroom (Nat.not_le.mpr hpast)

/-- The range check stands before everything else an instruction does, so what would follow does not matter. -/
theorem State.checkRange_past_top {s : State} {n : Nat} (rest : Result) (hpos : n ≠ 0)
    (hpast : s.i.toNat + n > 4096) :
    ∃ t, s.checkRange n rest = .next t ∧ t.mode = .halted .dataAddressFault s.pc ∧
      s.onlyChanges t (fun p => p = .mode) := by
  rw [State.checkRange_of_outside rest (State.inRange_eq_false hpos hpast)]
  exact raiseFault_changes_only_mode .dataAddressFault s

/-- Settles O56: each of the four is a range check of the bytes it accesses before anything else. -/
theorem accessPastTheTopRaisesDataAddressFault : Obligations.AccessPastTheTopRaisesDataAddressFault := by
  rintro ins s (⟨x, y, n, rfl, hn, hpast⟩ | ⟨x, rfl, hpast⟩ | ⟨x, rfl | rfl, hpast⟩)
  · have hrows : n.toNat ≠ 0 := fun hzero => hn (BitVec.eq_of_toNat_eq hzero)
    exact State.checkRange_past_top _ hrows (by omega)
  · exact State.checkRange_past_top _ (by decide) (by omega)
  · exact State.checkRange_past_top _ (Nat.succ_ne_zero x.toNat) (by omega)
  · exact State.checkRange_past_top _ (Nat.succ_ne_zero x.toNat) (by omega)

end Sys2Proof.Machine
end

section
/-! PROOFS. The encoding (30_encoding.md R70 to R86): decoder and encoder are inverse to each other (R81), the unmapped
words are those of R80, and the decoder selects the rows of the opcode table (R85). -/

namespace Sys2Proof

section
variable {w : Word} {ins : Instr}

/-! ## A word from those of its fields that a form fixes and those it leaves to the operands (R71, R72) -/

theorem wordA_of_opField {op : Nibble} (hop : opField w = op) : wordA op (nnnField w) = w := by
  rw [← hop, wordA_fields]

theorem wordI_of_opField {op : Nibble} (hop : opField w = op) : wordI op (xField w) (nnField w) = w := by
  rw [← hop, wordI_fields]

theorem wordI_of_selector {op : Nibble} {nn : Byte} (hop : opField w = op) (hnn : nnField w = nn) :
    wordI op (xField w) nn = w := by
  rw [← hnn, wordI_of_opField hop]

theorem wordR_of_opField {op : Nibble} (hop : opField w = op) :
    wordR op (xField w) (yField w) (nField w) = w := by
  rw [← hop, wordR_fields]

theorem wordR_of_nibble {op n : Nibble} (hop : opField w = op) (hn : nField w = n) :
    wordR op (xField w) (yField w) n = w := by
  rw [← hn, wordR_of_opField hop]

/-! ## Decoding what was encoded -/

/-- Only `SYS 0x0E0` and `SYS 0x0EE` would be encoded as words of another form (R75, R86). -/
theorem decodeGroup0_wordA {nnn : Addr} (hcls : nnn ≠ 0x0E0) (hret : nnn ≠ 0x0EE) :
    decodeGroup0 (wordA 0x0 nnn) = .sys nnn := by
  have hne : ∀ a : Addr, nnn ≠ a → wordA 0x0 nnn ≠ wordA 0x0 a := fun a ha e =>
    ha (by simpa using congrArg nnnField e)
  unfold decodeGroup0
  refine (if_neg (hne 0x0E0 hcls)).trans ((if_neg (hne 0x0EE hret)).trans ?_)
  rw [nnnField_wordA]

theorem decodeWord_encode (hwf : ins.wellFormed = true) : decodeWord (encode ins) = .ok ins := by
  cases ins with
  | cls | ret => rfl
  | sys nnn =>
    obtain ⟨hcls, hret⟩ : nnn ≠ 0x0E0 ∧ nnn ≠ 0x0EE := by simpa [Instr.wellFormed] using hwf
    exact (decodeWord_group0 (opField_wordA 0x0 nnn)).trans (congrArg Except.ok (decodeGroup0_wordA hcls hret))
  | jp | call | ldI | jpV0 =>
    simp [encode, decodeWord_group1, decodeWord_group2, decodeWord_groupA, decodeWord_groupB]
  | seImm | sneImm | ldImm | addImm | rnd =>
    simp [encode, decodeWord_group3, decodeWord_group4, decodeWord_group6, decodeWord_group7, decodeWord_groupC]
  | seReg | sneReg | drw => simp [encode, decodeWord_group5, decodeWord_group9, decodeWord_groupD]
  | ldReg | orReg | andReg | xorReg | addReg | sub | shr | subn | shl =>
    simp [encode, decodeWord_group8, decodeGroup8]
  | skp | sknp => simp [encode, decodeWord_groupE, decodeGroupE]
  | ldVxDt | ldVxK | ldDtVx | ldStVx | addI | ldF | ldB | dumpRegs | restoreRegs =>
    simp [encode, decodeWord_groupF, decodeGroupF]

/-! ## Encoding what a word decodes to -/

/-- The word of `SYS nnn` is `0nnn`, so an `nnn` outside R86's exception is what a word other than 00E0 and 00EE has. -/
theorem wellFormed_sys_nnnField (hop : opField w = 0x0) (hcls : w ≠ 0x00E0) (hret : w ≠ 0x00EE) :
    (Instr.sys (nnnField w)).wellFormed = true := by
  have hne : ∀ a : Addr, w ≠ wordA 0x0 a → nnnField w ≠ a := fun a ha e =>
    ha (by rw [← e, wordA_of_opField hop])
  simpa [Instr.wellFormed] using And.intro (hne 0x0E0 hcls) (hne 0x0EE hret)

theorem decodeGroup0_sound (hop : opField w = 0x0) :
    (decodeGroup0 w).wellFormed = true ∧ encode (decodeGroup0 w) = w := by
  unfold decodeGroup0
  split_ifs with hcls hret
  · exact ⟨rfl, hcls.symm⟩
  · exact ⟨rfl, hret.symm⟩
  · exact ⟨wellFormed_sys_nnnField hop hcls hret, wordA_of_opField hop⟩

theorem decodeGroup8_sound (hop : opField w = 0x8) (h : decodeGroup8 w = .ok ins) :
    ins.wellFormed = true ∧ encode ins = w := by
  unfold decodeGroup8 at h
  split at h <;> cases h
  all_goals
    rename_i hn
    exact ⟨rfl, wordR_of_nibble hop (BitVec.eq_of_toNat_eq hn)⟩

theorem decodeGroupE_sound (hop : opField w = 0xE) (h : decodeGroupE w = .ok ins) :
    ins.wellFormed = true ∧ encode ins = w := by
  unfold decodeGroupE at h
  split_ifs at h <;> cases h
  all_goals exact ⟨rfl, wordI_of_selector hop ‹nnField w = _›⟩

theorem decodeGroupF_sound (hop : opField w = 0xF) (h : decodeGroupF w = .ok ins) :
    ins.wellFormed = true ∧ encode ins = w := by
  unfold decodeGroupF at h
  split_ifs at h <;> cases h
  all_goals exact ⟨rfl, wordI_of_selector hop ‹nnField w = _›⟩

/-- What a word decodes to is a well-formed instruction whose encoding is that word, group by group (R74). -/
theorem decodeWord_sound (h : decodeWord w = .ok ins) : ins.wellFormed = true ∧ encode ins = w := by
  rcases nibble_cases (opField w) with e | e | e | e | e | e | e | e | e | e | e | e | e | e | e | e
  · cases (decodeWord_group0 e).symm.trans h
    exact decodeGroup0_sound e
  · cases (decodeWord_group1 e).symm.trans h
    exact ⟨rfl, wordA_of_opField e⟩
  · cases (decodeWord_group2 e).symm.trans h
    exact ⟨rfl, wordA_of_opField e⟩
  · cases (decodeWord_group3 e).symm.trans h
    exact ⟨rfl, wordI_of_opField e⟩
  · cases (decodeWord_group4 e).symm.trans h
    exact ⟨rfl, wordI_of_opField e⟩
  · rw [decodeWord_group5 e] at h
    split at h <;> cases h
    exact ⟨rfl, wordR_of_nibble e ‹nField w = 0›⟩
  · cases (decodeWord_group6 e).symm.trans h
    exact ⟨rfl, wordI_of_opField e⟩
  · cases (decodeWord_group7 e).symm.trans h
    exact ⟨rfl, wordI_of_opField e⟩
  · exact decodeGroup8_sound e ((decodeWord_group8 e).symm.trans h)
  · rw [decodeWord_group9 e] at h
    split at h <;> cases h
    exact ⟨rfl, wordR_of_nibble e ‹nField w = 0›⟩
  · cases (decodeWord_groupA e).symm.trans h
    exact ⟨rfl, wordA_of_opField e⟩
  · cases (decodeWord_groupB e).symm.trans h
    exact ⟨rfl, wordA_of_opField e⟩
  · cases (decodeWord_groupC e).symm.trans h
    exact ⟨rfl, wordI_of_opField e⟩
  · cases (decodeWord_groupD e).symm.trans h
    exact ⟨rfl, wordR_of_opField e⟩
  · exact decodeGroupE_sound e ((decodeWord_groupE e).symm.trans h)
  · exact decodeGroupF_sound e ((decodeWord_groupF e).symm.trans h)

theorem wellFormed_of_decodeWord (h : decodeWord w = .ok ins) : ins.wellFormed = true := (decodeWord_sound h).1

theorem encode_of_decodeWord (h : decodeWord w = .ok ins) : encode ins = w := (decodeWord_sound h).2

/-! ## The words that decode to nothing (R80) -/

theorem decodeGroup8_error_iff : (∃ miss, decodeGroup8 w = .error miss) ↔
    (nField w = 0x8 ∨ nField w = 0x9 ∨ nField w = 0xA ∨ nField w = 0xB ∨ nField w = 0xC ∨ nField w = 0xD ∨
      nField w = 0xF) := by
  rcases nibble_cases (nField w) with e | e | e | e | e | e | e | e | e | e | e | e | e | e | e | e <;>
    simp [decodeGroup8, e]

theorem decodeGroupE_error_iff :
    (∃ miss, decodeGroupE w = .error miss) ↔ nnField w ≠ 0x9E ∧ nnField w ≠ 0xA1 := by
  unfold decodeGroupE
  split_ifs with hskp hsknp
  · simp [hskp]
  · simp [hsknp]
  · exact iff_of_true ⟨_, rfl⟩ ⟨hskp, hsknp⟩

theorem decodeGroupF_error_iff : (∃ miss, decodeGroupF w = .error miss) ↔
    nnField w ∉ [0x07, 0x0A, 0x15, 0x18, 0x1E, 0x29, 0x33, 0x55, 0x65] := by
  unfold decodeGroupF
  split_ifs <;> simp_all

/-! ## The rows of the opcode table (R85) -/

open Laws.TableRow in
theorem encode_and_tableMask (ins : Instr) : encode ins &&& tableMask ins = tableMatch ins := by
  cases ins
  exacts [cls, ret, sys _, jp _, call _, seImm _ _, sneImm _ _, seReg _ _, ldImm _ _, addImm _ _, ldReg _ _,
    orReg _ _, andReg _ _, xorReg _ _, addReg _ _, sub _ _, shr _ _, subn _ _, shl _ _, sneReg _ _, ldI _, jpV0 _,
    rnd _ _, drw _ _ _, skp _, sknp _, ldVxDt _, ldVxK _, ldDtVx _, ldStVx _, addI _, ldF _, ldB _, dumpRegs _,
    restoreRegs _]

/-- The mask of a row, from its match alone. -/
def maskOfMatch (m : Word) : Word :=
  if m = 0x00E0 ∨ m = 0x00EE then 0xFFFF
  else if opField m ∈ [0x5, 0x8, 0x9] then 0xF00F
  else if opField m ∈ [0xE, 0xF] then 0xF0FF
  else 0xF000

theorem tableMask_eq_maskOfMatch (ins : Instr) : tableMask ins = maskOfMatch (tableMatch ins) := by
  cases ins <;> simp [tableMask, tableMatch, maskOfMatch, opField]

/-- The instruction of the same form whose operands are the fields of `w`. -/
def Instr.withFieldsOf (w : Word) : Instr → Instr
  | .cls => .cls
  | .ret => .ret
  | .sys _ => .sys (nnnField w)
  | .jp _ => .jp (nnnField w)
  | .call _ => .call (nnnField w)
  | .seImm _ _ => .seImm (xField w) (nnField w)
  | .sneImm _ _ => .sneImm (xField w) (nnField w)
  | .seReg _ _ => .seReg (xField w) (yField w)
  | .ldImm _ _ => .ldImm (xField w) (nnField w)
  | .addImm _ _ => .addImm (xField w) (nnField w)
  | .ldReg _ _ => .ldReg (xField w) (yField w)
  | .orReg _ _ => .orReg (xField w) (yField w)
  | .andReg _ _ => .andReg (xField w) (yField w)
  | .xorReg _ _ => .xorReg (xField w) (yField w)
  | .addReg _ _ => .addReg (xField w) (yField w)
  | .sub _ _ => .sub (xField w) (yField w)
  | .shr _ _ => .shr (xField w) (yField w)
  | .subn _ _ => .subn (xField w) (yField w)
  | .shl _ _ => .shl (xField w) (yField w)
  | .sneReg _ _ => .sneReg (xField w) (yField w)
  | .ldI _ => .ldI (nnnField w)
  | .jpV0 _ => .jpV0 (nnnField w)
  | .rnd _ _ => .rnd (xField w) (nnField w)
  | .drw _ _ _ => .drw (xField w) (yField w) (nField w)
  | .skp _ => .skp (xField w)
  | .sknp _ => .sknp (xField w)
  | .ldVxDt _ => .ldVxDt (xField w)
  | .ldVxK _ => .ldVxK (xField w)
  | .ldDtVx _ => .ldDtVx (xField w)
  | .ldStVx _ => .ldStVx (xField w)
  | .addI _ => .addI (xField w)
  | .ldF _ => .ldF (xField w)
  | .ldB _ => .ldB (xField w)
  | .dumpRegs _ => .dumpRegs (xField w)
  | .restoreRegs _ => .restoreRegs (xField w)

theorem tableMatch_withFieldsOf (w : Word) (ins : Instr) : tableMatch (ins.withFieldsOf w) = tableMatch ins := by
  cases ins <;> rfl

/-- What the mask of formats A, I and R (with its `n` an operand) fixes: the group. -/
theorem opField_of_and_mask {op : Nibble} (h : w &&& wordA 0xF 0 = wordA op 0) : opField w = op := by
  rw [← wordA_fields w, wordA_and] at h
  exact BitVec.and_allOnes.symm.trans (by simpa using congrArg opField h)

/-- What the mask of format R with its `n` fixed leaves open: the two registers. -/
theorem wordR_of_and_mask {op n : Nibble} (h : w &&& wordR 0xF 0 0 0xF = wordR op 0 0 n) :
    wordR op (xField w) (yField w) n = w := by
  rw [← wordR_fields w, wordR_and] at h
  have hop : opField w &&& 0xF = op := by simpa using congrArg opField h
  have hn : nField w &&& 0xF = n := by simpa using congrArg nField h
  exact wordR_of_nibble (BitVec.and_allOnes.symm.trans hop) (BitVec.and_allOnes.symm.trans hn)

/-- What the mask of format S leaves open: the register. -/
theorem wordI_of_and_mask {op : Nibble} {nn : Byte} (h : w &&& wordI 0xF 0 0xFF = wordI op 0 nn) :
    wordI op (xField w) nn = w := by
  rw [← wordI_fields w, wordI_and] at h
  have hop : opField w &&& 0xF = op := by simpa using congrArg opField h
  have hnn : nnField w &&& 0xFF = nn := by simpa using congrArg nnField h
  exact wordI_of_selector (BitVec.and_allOnes.symm.trans hop) (BitVec.and_allOnes.symm.trans hnn)

/-- A word that selects the row of a form is the encoding of that form with the word's own fields as operands. -/
theorem encode_withFieldsOf (h : w &&& tableMask ins = tableMatch ins) : encode (ins.withFieldsOf w) = w := by
  cases ins with
  | cls | ret => exact h.symm.trans BitVec.and_allOnes
  | sys | jp | call | ldI | jpV0 => exact wordA_of_opField (opField_of_and_mask h)
  | seImm | sneImm | ldImm | addImm | rnd => exact wordI_of_opField (opField_of_and_mask h)
  | drw => exact wordR_of_opField (opField_of_and_mask h)
  | seReg | sneReg | ldReg | orReg | andReg | xorReg | addReg | sub | shr | subn | shl =>
    exact wordR_of_and_mask h
  | skp | sknp | ldVxDt | ldVxK | ldDtVx | ldStVx | addI | ldF | ldB | dumpRegs | restoreRegs =>
    exact wordI_of_and_mask h

/-- The `except` list of the row of `SYS` is what R86 asks of its operand (R75). -/
theorem wellFormed_withFieldsOf (h : w &&& tableMask ins = tableMatch ins)
    (hexcept : tableMatch ins = 0x0000 → w ≠ 0x00E0 ∧ w ≠ 0x00EE) : (ins.withFieldsOf w).wellFormed = true := by
  cases ins with
  | sys =>
    obtain ⟨hcls, hret⟩ := hexcept rfl
    exact wellFormed_sys_nnnField (opField_of_and_mask h) hcls hret
  | _ => rfl

/-- The two words of the `except` list decode to other forms than `SYS`. -/
theorem not_except_of_decodeWord (h : decodeWord w = .ok ins) (hrow : tableMatch ins = 0x0000) :
    w ≠ 0x00E0 ∧ w ≠ 0x00EE := by
  constructor <;> rintro rfl <;> cases h <;> cases hrow

end

/-! ## The obligations -/

/-- Settles O2: a word determines its instruction by decoding, and an instruction its word by encoding. -/
theorem decodeInvertsEncode : Obligations.DecodeInvertsEncode :=
  ⟨fun _ hwf => decodeWord_encode hwf, fun _ _ h => wellFormed_of_decodeWord h,
    fun _ _ _ h h' => (encode_of_decodeWord h).symm.trans (encode_of_decodeWord h')⟩

/-- Settles O3: the second half of what the decoder's soundness says. -/
theorem encodeInvertsDecode : Obligations.EncodeInvertsDecode := fun _ _ h => encode_of_decodeWord h

/-- Settles O4, group by group: only groups 5, 8, 9, E and F have unmapped words. -/
theorem unmappedWordsAreExactlyThese : Obligations.UnmappedWordsAreExactlyThese := by
  intro w
  rcases nibble_cases (opField w) with e | e | e | e | e | e | e | e | e | e | e | e | e | e | e | e
  · simp [decodeWord_group0 e, e]
  · simp [decodeWord_group1 e, e]
  · simp [decodeWord_group2 e, e]
  · simp [decodeWord_group3 e, e]
  · simp [decodeWord_group4 e, e]
  · rw [decodeWord_group5 e]
    split
    next hn => simp [e, hn]
    next hn => exact iff_of_true ⟨_, rfl⟩ (.inl ⟨e, hn⟩)
  · simp [decodeWord_group6 e, e]
  · simp [decodeWord_group7 e, e]
  · rw [decodeWord_group8 e, decodeGroup8_error_iff]
    simp [e]
  · rw [decodeWord_group9 e]
    split
    next hn => simp [e, hn]
    next hn => exact iff_of_true ⟨_, rfl⟩ (.inr (.inl ⟨e, hn⟩))
  · simp [decodeWord_groupA e, e]
  · simp [decodeWord_groupB e, e]
  · simp [decodeWord_groupC e, e]
  · simp [decodeWord_groupD e, e]
  · rw [decodeWord_groupE e, decodeGroupE_error_iff]
    simp [e]
  · rw [decodeWord_groupF e, decodeGroupF_error_iff]
    simp [e]

/-- Settles O5: a word that selects a row is the encoding of that row's form with the word's fields as operands, and
every encoding selects its own row. -/
theorem decoderAgreesWithOpcodeTable : Obligations.DecoderAgreesWithOpcodeTable := by
  intro w ins
  constructor
  · rintro ⟨hrow, hexcept⟩
    have hdecode := decodeWord_encode (wellFormed_withFieldsOf hrow hexcept)
    rw [encode_withFieldsOf hrow] at hdecode
    exact ⟨_, hdecode, tableMatch_withFieldsOf w ins⟩
  · rintro ⟨ins', hdecode, hmatch⟩
    refine ⟨?_, fun hsys => not_except_of_decodeWord hdecode (hmatch.trans hsys)⟩
    rw [tableMask_eq_maskOfMatch, ← hmatch, ← tableMask_eq_maskOfMatch, ← encode_of_decodeWord hdecode]
    exact encode_and_tableMask ins'

/-- Settles O1: the decoder evaluated on each of the ten words. -/
theorem specWordsDecodeAsTheSpecSays : Obligations.SpecWordsDecodeAsTheSpecSays := by
  unfold Obligations.SpecWordsDecodeAsTheSpecSays
  decide

end Sys2Proof
end

section
/-! PROOFS. Control transfer (40_flow.md): a `Step` in Running runs the instruction its two bytes decode to (R100); what
SYS, the jumps, CALL, RET and the skips do to `pc` and the call stack, and that they do nothing else (R101 to R110). -/

namespace Sys2Proof.Machine

/-! ## The step runs the decoded instruction (R100) -/

theorem State.fetch_eq_some {s : State} (heven : s.pc.toNat % 2 = 0) (hroom : s.pc.toNat ≤ 0xFFE) :
    s.fetch = some (s.wordAt s.pc.toNat) :=
  if_pos ((fetchable_iff s.pc).mpr ⟨heven, hroom⟩)

theorem runInstruction_of_decodeWord {s : State} {w : Word} {ins : Instr} (hfetch : s.fetch = some w)
    (hdecode : decodeWord w = .ok ins) : runInstruction s = exec ins s := by
  simp only [runInstruction, hfetch, hdecode]

/-- Settles O6: the fetch finds the big-endian word, and taking the event leaves what it reads. -/
theorem stepRunsTheDecodedInstruction : Obligations.StepRunsTheDecodedInstruction := by
  intro s k ins hevent hrun heven hroom hdecode
  rw [step_of_running hevent hrun]
  exact runInstruction_of_decodeWord (s.fetch_takeEvent.trans (State.fetch_eq_some heven hroom)) hdecode

/-! ## The placed word (log entry 2) -/

theorem decodeWord_of_decodeTableWord {nbits w : Nat} {ins : Instr} (h : decodeTableWord nbits w = some ins) :
    decodeWord (tableWord nbits w) = .ok ins := by
  rw [decodeTableWord_eq] at h
  cases hdecode : decodeWord (tableWord nbits w) with
  | error miss => simp [hdecode, Except.toOption] at h
  | ok ins' => simpa [hdecode, Except.toOption] using h

/-- Reducing a `pc` as `readyToFetch` does makes it even and leaves room for a word. -/
theorem fetchable_and_mask (pc : Word) : fetchable (pc &&& 0x0FFE) = true := by
  have hle : pc.toNat &&& 0xFFE ≤ 0xFFE := Nat.and_le_right
  simp [fetchable, hle]

theorem State.fetchable_readyToFetch (s : State) : fetchable s.readyToFetch.pc = true := by
  unfold State.readyToFetch
  rw [State.pc_setPending, State.pc_setPc]
  split
  · assumption
  · exact fetchable_and_mask s.pc

theorem State.nextEvent_readyToFetch (s : State) : ∃ k, s.readyToFetch.nextEvent = .step k := by
  unfold State.readyToFetch State.nextEvent
  rw [State.pending_setPending]
  rcases s.pending with _ | ⟨⟨⟩, _⟩ <;> exact ⟨_, rfl⟩

/-- The word that is placed at `pc` is the one that is read there. -/
theorem State.wordAt_placeWord (s : State) (w : Word) : (s.placeWord w).wordAt s.pc.toNat = w := by
  simp [State.placeWord, State.wordAt, Memory.read_write]

/-- Settles O7: the placed word stands where a `Step` in Running fetches it. -/
theorem placedWordIsTheOneExecuted : Obligations.PlacedWordIsTheOneExecuted := by
  intro s w ins hins
  obtain ⟨k, hevent⟩ := s.nextEvent_readyToFetch
  obtain ⟨heven, hroom⟩ := (fetchable_iff _).mp s.fetchable_readyToFetch
  have hdecode := decodeWord_of_decodeTableWord hins
  rw [← s.readyToFetch.wordAt_placeWord (tableWord 16 w)] at hdecode
  exact stepRunsTheDecodedInstruction (s.withFetchWord 16 w) k ins hevent rfl heven hroom hdecode

/-! ## Instructions that write `pc` and nothing else -/

theorem State.setPc_changes_only_pc (s : State) (a : Word) : s.onlyChanges (s.setPc a) (fun p => p = .pc) :=
  (State.onlyChanges.refl s fun p => p = .pc).setPc rfl a

/-- Settles O27: `SYS` is the advance to the next word. -/
theorem sysOnlyAdvances : Obligations.SysOnlyAdvances :=
  fun s _ => ⟨s.advance, rfl, nextPc_toNat s.pc, s.setPc_changes_only_pc _⟩

/-- Settles O28: an address is a 12-bit value, so it stands in `pc` as it is. -/
theorem jpSetsPc : Obligations.JpSetsPc :=
  fun s nnn => ⟨s.setPc (nnn.setWidth 16), rfl, addr_setWidth_toNat nnn, s.setPc_changes_only_pc _⟩

/-- Settles O29: the sum is written wrapped. -/
theorem jpV0AddsV0 : Obligations.JpV0AddsV0 :=
  fun s nnn => ⟨s.setPc (wrap12 (nnn.toNat + (s.getV 0).toNat)), rfl, wrap12_toNat _, s.setPc_changes_only_pc _⟩

/-! ## The skips (R101) -/

/-- A skip adds to `pc` once: 4 where its condition holds, else 2. -/
theorem State.pc_skipIf_toNat (s : State) (c : Bool) :
    (s.skipIf c).pc.toNat = (s.pc.toNat + if c then 4 else 2) % 4096 := by
  cases c
  · exact nextPc_toNat s.pc
  · exact skipPc_toNat s.pc

theorem State.pc_skipIf_cases (s : State) (c : Bool) :
    (s.skipIf c).pc.toNat = (s.pc.toNat + 4) % 4096 ∨ (s.skipIf c).pc.toNat = (s.pc.toNat + 2) % 4096 := by
  cases c
  · exact .inr (s.pc_skipIf_toNat false)
  · exact .inl (s.pc_skipIf_toNat true)

/-- Settles O34: all six are `skipIf` of a state with the `pc` and the mode of `s`, on a condition that no memory byte
enters. -/
theorem skipsAreNotCumulative : Obligations.SkipsAreNotCumulative := by
  rintro ins s (⟨x, nn, rfl | rfl⟩ | ⟨x, y, rfl | rfl⟩ | ⟨x, rfl | rfl⟩)
  all_goals exact ⟨_, rfl, State.pc_skipIf_cases _ _, rfl, fun _ => rfl⟩

/-- A skip where two bytes are equal, with its frame. -/
theorem State.skipIf_beq_spec (s : State) (a b : Byte) :
    ∃ t, (.next (s.skipIf (a == b)) : Result) = .next t ∧
      t.pc.toNat = (s.pc.toNat + if a.toNat = b.toNat then 4 else 2) % 4096 ∧ s.onlyChanges t (fun p => p = .pc) := by
  refine ⟨_, rfl, ?_, s.setPc_changes_only_pc _⟩
  simp only [State.pc_skipIf_toNat, beq_iff_eq, BitVec.toNat_inj]

/-- A skip where two bytes differ, with its frame. -/
theorem State.skipIf_bne_spec (s : State) (a b : Byte) :
    ∃ t, (.next (s.skipIf (a != b)) : Result) = .next t ∧
      t.pc.toNat = (s.pc.toNat + if a.toNat = b.toNat then 2 else 4) % 4096 ∧ s.onlyChanges t (fun p => p = .pc) := by
  refine ⟨_, rfl, ?_, s.setPc_changes_only_pc _⟩
  simp only [State.pc_skipIf_toNat, bne_iff_ne, ne_eq, ite_not, BitVec.toNat_inj]

/-- Settles O35: the two skips on a register and the immediate. -/
theorem immediateSkips : Obligations.ImmediateSkips :=
  fun s x nn => ⟨s.skipIf_beq_spec (s.getV x) nn, s.skipIf_bne_spec (s.getV x) nn⟩

/-- Settles O36: the two skips on a pair of registers. -/
theorem registerSkips : Obligations.RegisterSkips :=
  fun s x y => ⟨s.skipIf_beq_spec (s.getV x) (s.getV y), s.skipIf_bne_spec (s.getV x) (s.getV y)⟩

/-! ## CALL and RET (R103, R105) -/

/-- Settles O30: with room the push takes the entry SP named, and its index is SP itself. -/
theorem callPushesTheReturnAddress : Obligations.CallPushesTheReturnAddress := by
  intro s nnn hroom h16
  have hentry : Fin.ofNat 16 s.sp.toNat = ⟨s.sp.toNat, h16⟩ := Fin.ext (Nat.mod_eq_of_lt h16)
  rcases execCall_cases nnn s with ⟨-, hcall⟩ | ⟨hfull, -⟩
  · rw [hentry] at hcall
    refine ⟨_, hcall, ?_, ?_, addr_setWidth_toNat nnn, ?_⟩
    · simp
    · simp only [State.sp_setPc, State.sp_setSp]
      bv_omega
    · refine State.onlyChanges.setPc (State.onlyChanges.setSp ?_ (.inr (.inl rfl)) _) (.inl rfl) _
      exact (State.onlyChanges.refl s _).setStack (.inr (.inr rfl)) _
  · exact absurd hroom (Nat.not_lt.mpr hfull)

/-- Settles O32: with a live entry the pop reads the entry below SP and writes none. -/
theorem retPopsTheReturnAddress : Obligations.RetPopsTheReturnAddress := by
  intro s hlive hcap h16
  have hentry : s.stack[Fin.ofNat 16 (s.sp.toNat - 1)] = s.stack[s.sp.toNat - 1] := by
    simp only [Fin.getElem_fin, Fin.val_ofNat, Nat.mod_eq_of_lt h16]
  rcases execRet_cases s with ⟨hempty, -⟩ | ⟨-, -, hret⟩ | ⟨-, hbeyond, -⟩
  · simp [hempty] at hlive
  · refine ⟨_, hret, hentry, ?_, ((State.onlyChanges.refl s _).setSp (.inr rfl) _).setPc (.inl rfl) _⟩
    simp only [State.sp_setPc, State.sp_setSp]
    bv_omega
  · exact absurd hcap (Nat.not_le.mpr hbeyond)

end Sys2Proof.Machine
end

section
/-! PROOFS. The ALU (41_alu.md): what the two result operations leave, the number each flag is written as (R120), and
from them the register loads, the arithmetic and the logic (R121 to R131). -/

namespace Sys2Proof.Machine

/-! ## The two result operations: what holds of the result holds of the destination -/

/-- The result is in `V[x]`, and nothing but `pc` and `V[x]` is written. -/
theorem aluResult_spec (s : State) (x : Nibble) {r : Byte} {P : Byte → Prop} (hr : P r) :
    ∃ t, aluResult x r s = .next t ∧ P (t.getV x) ∧ t.pc.toNat = (s.pc.toNat + 2) % 4096 ∧
      s.onlyChanges t (fun p => p = .pc ∨ p = .reg x) := by
  refine ⟨(s.setV x r).advance, rfl, ?_, nextPc_toNat s.pc, ?_⟩
  · simpa using hr
  · exact ((State.onlyChanges.refl s _).setV (.inr rfl) r).advance (.inl rfl)

/-- The flag is written after the result, so it is what VF ends as, and the result survives in every other
destination (R120, decision D10). -/
theorem aluResultFlag_spec (s : State) (x : Nibble) {r : Byte} {flag : Bool} {n : Nat} {P : Byte → Prop} (hr : P r)
    (hflag : (flagByte flag).toNat = n) :
    ∃ t, aluResultFlag x r flag s = .next t ∧ (x ≠ vf → P (t.getV x)) ∧ (t.getV vf).toNat = n ∧
      t.pc.toNat = (s.pc.toNat + 2) % 4096 ∧ s.onlyChanges t (fun p => p = .pc ∨ p = .reg x ∨ p = .reg vf) := by
  refine ⟨((s.setV x r).setV vf (flagByte flag)).advance, rfl, fun hx => ?_, ?_, nextPc_toNat s.pc, ?_⟩
  · simpa [State.getV_setV_of_ne _ _ hx] using hr
  · simpa using hflag
  · exact (((State.onlyChanges.refl s _).setV (.inr (.inl rfl)) r).setV (.inr (.inr rfl)) _).advance (.inl rfl)

/-! ## The flags as numbers -/

theorem flagByte_decide_toNat (p : Prop) [Decidable p] : (flagByte (decide p)).toNat = if p then 1 else 0 := by
  by_cases hp : p <;> simp [flagByte, hp]

theorem flagByte_carryOut_toNat (a b : Byte) :
    (flagByte (carryOut a b)).toNat = if a.toNat + b.toNat > 255 then 1 else 0 :=
  flagByte_decide_toNat _

theorem flagByte_notBorrow_toNat (a b : Byte) :
    (flagByte (notBorrow a b)).toNat = if a.toNat ≥ b.toNat then 1 else 0 :=
  flagByte_decide_toNat _

/-- A bit of a byte as a number is its binary digit. -/
theorem flagByte_getLsbD_toNat (a : Byte) (k : Nat) : (flagByte (a.getLsbD k)).toNat = a.toNat / 2 ^ k % 2 := by
  rw [BitVec.getLsbD, Nat.testBit_eq_decide_div_mod_eq, flagByte_decide_toNat]
  split <;> omega

theorem flagByte_shiftedOutLow_toNat (a : Byte) : (flagByte (shiftedOutLow a)).toNat = a.toNat % 2 := by
  simpa [shiftedOutLow] using flagByte_getLsbD_toNat a 0

/-- Bit 7 is the highest digit of a byte, so nothing is left to reduce. -/
theorem flagByte_shiftedOutHigh_toNat (a : Byte) : (flagByte (shiftedOutHigh a)).toNat = a.toNat / 128 := by
  have hdigit : (flagByte (shiftedOutHigh a)).toNat = a.toNat / 128 % 2 := flagByte_getLsbD_toNat a 7
  have hlt := a.isLt
  omega

/-! ## The results as numbers -/

/-- The difference of two bytes is the integer difference modulo 256. -/
theorem byte_sub_toNat (a b : Byte) : ((a - b).toNat : Int) = (a.toNat - b.toNat : Int) % 256 := by
  bv_omega

theorem byte_shiftRight_one_toNat (a : Byte) : (a >>> 1).toNat = a.toNat / 2 := by
  rw [BitVec.toNat_ushiftRight, Nat.shiftRight_one]

theorem byte_shiftLeft_one_toNat (a : Byte) : (a <<< 1).toNat = 2 * a.toNat % 256 := by
  rw [BitVec.toNat_shiftLeft, Nat.shiftLeft_eq, Nat.mul_comm, Nat.pow_one]

/-! ## Destination only (R121 to R126) -/

/-- Settles O37: the result is the immediate. -/
theorem ldImmLoads : Obligations.LdImmLoads :=
  fun s x nn => aluResult_spec s x (P := (· = nn)) rfl

/-- Settles O38: the byte sum is the sum modulo 256. -/
theorem addImmWrapsWithoutFlag : Obligations.AddImmWrapsWithoutFlag :=
  fun s x nn => aluResult_spec s x (P := (·.toNat = _)) (BitVec.toNat_add (s.getV x) nn)

/-- Settles O39: the result is `V[y]` as it was before the write. -/
theorem ldRegCopies : Obligations.LdRegCopies :=
  fun s x y => aluResult_spec s x (P := (· = s.getV y)) rfl

/-- Settles O40: each operation on bytes is its operation on every bit. -/
theorem logicalOperationsBitwise : Obligations.LogicalOperationsBitwise :=
  fun s x y =>
    ⟨aluResult_spec s x (P := fun r => ∀ b, r.getLsbD b = ((s.getV x).getLsbD b || (s.getV y).getLsbD b))
        fun _ => BitVec.getLsbD_or,
      aluResult_spec s x (P := fun r => ∀ b, r.getLsbD b = ((s.getV x).getLsbD b && (s.getV y).getLsbD b))
        fun _ => BitVec.getLsbD_and,
      aluResult_spec s x (P := fun r => ∀ b, r.getLsbD b = ((s.getV x).getLsbD b ^^ (s.getV y).getLsbD b))
        fun _ => BitVec.getLsbD_xor⟩

/-! ## Destination and flag (R127 to R131) -/

/-- Settles O41: the carry compares the sum of the old values before it is reduced. -/
theorem addRegWritesSumAndCarry : Obligations.AddRegWritesSumAndCarry :=
  fun s x y => aluResultFlag_spec s x (P := (·.toNat = _)) (BitVec.toNat_ofNat _ 8)
    (flagByte_carryOut_toNat (s.getV x) (s.getV y))

/-- Settles O42: NOT borrow compares the old values in the order of the subtraction. -/
theorem subWritesDifferenceAndNotBorrow : Obligations.SubWritesDifferenceAndNotBorrow :=
  fun s x y => aluResultFlag_spec s x (P := fun r => (r.toNat : Int) = _) (byte_sub_toNat (s.getV x) (s.getV y))
    (flagByte_notBorrow_toNat (s.getV x) (s.getV y))

/-- Settles O43: as `SUB` with the sources exchanged and the same destination. -/
theorem subnWritesReverseDifference : Obligations.SubnWritesReverseDifference :=
  fun s x y => aluResultFlag_spec s x (P := fun r => (r.toNat : Int) = _) (byte_sub_toNat (s.getV y) (s.getV x))
    (flagByte_notBorrow_toNat (s.getV y) (s.getV x))

/-- Settles O44: a right shift by one halves, whatever `V[y]` holds. -/
theorem shrHalvesAndShiftsOutBit0 : Obligations.ShrHalvesAndShiftsOutBit0 :=
  fun s x _ => aluResultFlag_spec s x (P := (·.toNat = _)) (byte_shiftRight_one_toNat (s.getV x))
    (flagByte_shiftedOutLow_toNat (s.getV x))

/-- Settles O45: a left shift by one doubles modulo 256, whatever `V[y]` holds. -/
theorem shlDoublesAndShiftsOutBit7 : Obligations.ShlDoublesAndShiftsOutBit7 :=
  fun s x _ => aluResultFlag_spec s x (P := (·.toNat = _)) (byte_shiftLeft_one_toNat (s.getV x))
    (flagByte_shiftedOutHigh_toNat (s.getV x))

end Sys2Proof.Machine
end

section
/-! PROOFS. The random instruction (42_random.md) and the calls of the two ports that answer, the randomness source
(R140) and the keypad (45_keypad.md R165): an instruction that the access table gives neither count calls neither, and
no other event calls any. -/

namespace Sys2Proof.Machine

/-- Settles O46: the byte drawn is masked bit by bit, and the draw, the destination and `pc` are all it writes. -/
theorem rndMasksTheDrawnByte : Obligations.RndMasksTheDrawnByte := by
  intro s x nn
  have hbit (b : Nat) : ((s.nextByte.2.setV x (s.nextByte.1 &&& nn)).advance.getV x).getLsbD b =
      ((Config.freeRandomByte s.rngDraws).getLsbD b && nn.getLsbD b) := by
    rw [State.getV_advance, State.getV_setV_self, BitVec.getLsbD_and, State.nextByte_answer]
  refine ⟨_, rfl, hbit, fun b hzero => ?_, rfl, nextPc_toNat s.pc, ?_⟩
  · rw [hbit, hzero, Bool.and_false]
  · have hdrawn := (State.onlyChanges.refl s fun p => p = .pc ∨ p = .reg x ∨ p = .rngDraws).nextByte (.inr (.inr rfl))
    exact (hdrawn.setV (.inr (.inl rfl)) _).advance (.inl rfl)

/-! ## The instruction a step executes -/

theorem State.fetched_eq_some {s : State} {ins : Instr} (h : s.fetched = some ins) :
    ∃ w, s.fetch = some w ∧ decodeWord w = .ok ins := by
  unfold State.fetched at h
  cases hfetch : s.fetch with
  | none => simp [hfetch] at h
  | some w =>
    cases hdecode : decodeWord w with
    | error miss => simp [hfetch, hdecode, Except.toOption] at h
    | ok ins' => exact ⟨w, rfl, by simpa [hfetch, hdecode, Except.toOption] using h⟩

theorem step_of_fetched {s : State} {ins : Instr} (hexec : s.executes) (h : s.fetched = some ins) :
    step s = exec ins s.takeEvent := by
  obtain ⟨hrun, k, hevent⟩ := hexec
  obtain ⟨w, hfetch, hdecode⟩ := State.fetched_eq_some h
  rw [step_of_running hevent hrun]
  exact runInstruction_of_decodeWord (s.fetch_takeEvent.trans hfetch) hdecode

/-! ## No port is called but by an instruction -/

/-- `t` counts the port calls that `s` does (log entries 4 and 5). -/
def State.samePortCounts (s t : State) : Prop := t.rngDraws = s.rngDraws ∧ t.keyQueries = s.keyQueries

theorem State.tick_keeps_portCounts (s : State) : s.samePortCounts s.tick := by
  rcases s.tick_cases with ⟨-, h⟩ | ⟨-, h⟩ <;> rw [h]
  · exact ⟨State.rngDraws_setSound _ _, State.keyQueries_setSound _ _⟩
  · exact ⟨rfl, rfl⟩

/-- The counts are no state of the block, so `Reset` leaves them (log entries 4 and 5). -/
theorem State.resetTo_keeps_portCounts (s : State) (program : List Byte) (origin : Addr) :
    s.samePortCounts (s.resetTo program origin) := by
  unfold State.resetTo
  split <;> exact ⟨rfl, rfl⟩

/-- A step that executes no instruction calls neither port, a fault of the fetch or the decode included. -/
theorem step_executes_or_keeps_portCounts {s t : State} (h : step s = .next t) :
    (s.executes ∧ ∃ ins, s.fetched = some ins ∧ exec ins s.takeEvent = .next t) ∨ s.samePortCounts t := by
  rcases step_cases s with ⟨hexec, hs⟩ | ⟨_, -, -, hs⟩ | ⟨_, _, -, -, hs⟩ | ⟨_, _, _, -, -, hs⟩ | ⟨-, hs⟩ |
      ⟨_, _, -, hs⟩ <;> rw [hs] at h
  · rcases runInstruction_cases s.takeEvent with ⟨-, hr⟩ | ⟨_, _, -, -, hr⟩ | ⟨_, ins, -, -, hins, hr⟩ <;> rw [hr] at h
    · exact .inr (holds_of_next h ⟨rfl, rfl⟩)
    · exact .inr (holds_of_next h ⟨rfl, rfl⟩)
    · exact .inl ⟨hexec, ins, hins, h⟩
  · exact .inr (holds_of_next h ⟨rfl, rfl⟩)
  · exact .inr (holds_of_next h ⟨rfl, rfl⟩)
  · exact .inr (holds_of_next h ⟨rfl, rfl⟩)
  · exact .inr (holds_of_next h s.takeEvent.tick_keeps_portCounts)
  · exact .inr (holds_of_next h (s.takeEvent.resetTo_keeps_portCounts _ _))

/-- By the frame, an instruction that changes the count of draws is one the access table gives it to. -/
theorem step_changes_rngDraws {s t : State} (h : step s = .next t) (hne : t.rngDraws ≠ s.rngDraws) :
    s.executes ∧ ∃ x nn, s.fetched = some (.rnd x nn) := by
  rcases step_executes_or_keeps_portCounts h with ⟨hexec, ins, hins, hrun⟩ | ⟨hsame, -⟩
  · have hframe := instructionsWriteOnlyWhatTheTableGivesThem ins s.takeEvent t hrun .rngDraws
    obtain ⟨x, nn, rfl⟩ := not_imp_comm.mp hframe hne
    exact ⟨hexec, x, nn, hins⟩
  · exact absurd hsame hne

/-- As for the draws, with the two key skips. -/
theorem step_changes_keyQueries {s t : State} (h : step s = .next t) (hne : t.keyQueries ≠ s.keyQueries) :
    s.executes ∧ ∃ x, s.fetched = some (.skp x) ∨ s.fetched = some (.sknp x) := by
  rcases step_executes_or_keeps_portCounts h with ⟨hexec, ins, hins, hrun⟩ | ⟨-, hsame⟩
  · have hframe := instructionsWriteOnlyWhatTheTableGivesThem ins s.takeEvent t hrun .keyQueries
    rcases not_imp_comm.mp hframe hne with ⟨x, rfl⟩ | ⟨x, rfl⟩
    · exact ⟨hexec, x, .inl hins⟩
    · exact ⟨hexec, x, .inr hins⟩
  · exact absurd hsame hne

/-- Settles O25: each of the three instructions makes its one call, and the frame of all 35 excludes every other. -/
theorem portsAreCalledOncePerInstruction : Obligations.PortsAreCalledOncePerInstruction := by
  intro s t h
  refine ⟨fun hexec x nn hins => ?_, step_changes_rngDraws h, fun hexec x hins => ?_, step_changes_keyQueries h⟩
  · rw [step_of_fetched hexec hins] at h
    exact holds_of_next (P := fun u => u.rngDraws = s.rngDraws + 1) h rfl
  · rcases hins with hins | hins
    all_goals
      rw [step_of_fetched hexec hins] at h
      exact holds_of_next (P := fun u => u.keyQueries = s.keyQueries + 1) h rfl

end Sys2Proof.Machine
end

section
/-! PROOFS. The display (43_display.md): CLS (R146), the pixels DRW flips and the collision it reports (R147 to
R149). -/

namespace Sys2Proof.Machine

/-- Settles O47: the display is replaced by the blank one. -/
theorem clsClearsEveryPixel : Obligations.ClsClearsEveryPixel := by
  refine ⟨rfl, fun s => ⟨s.clearDisplay.advance, rfl, Display.pixel_blank, nextPc_toNat s.pc, ?_⟩⟩
  refine State.onlyChanges.advance (State.onlyChanges.setDisp (State.onlyChanges.refl s _) ?_) (.inl rfl)
  exact fun px py hp => absurd (.inr ⟨px, py, rfl⟩) hp

/-! ## What drawing the sprite at `I` leaves -/

section
variable {s t : State} {x y n : Nibble} {x0 y0 : Byte} {px : Fin 64} {py : Fin 32}

/-- The display after the sprite of `n` rows at `I` is drawn from `(x0, y0)`, and its collision bit (R147, R149). -/
def State.drawSprite (s : State) (x0 y0 : Byte) (n : Nibble) : Display × Bool :=
  blit s.disp (spritePixels x0.toNat y0.toNat (s.readData n.toNat)) false

/-- With its rows in range `DRW` draws, then writes VF, then advances. -/
theorem exec_drw_of_inRange (h : s.inRange n.toNat = true) :
    exec (.drw x y n) s =
      .next ((s.setDisp (s.drawSprite (s.getV x) (s.getV y) n).1).setV vf
        (flagByte (s.drawSprite (s.getV x) (s.getV y) n).2)).advance :=
  State.checkRange_of_inRange _ h

/-- The range premise of the statements about `DRW` is its range check. -/
theorem State.inRange_of_rows (h : n = 0 ∨ s.i.toNat + n.toNat ≤ 4096) : s.inRange n.toNat = true :=
  State.inRange_iff.mpr (h.imp_left (congrArg BitVec.toNat))

theorem nodup_spritePixels_readData (s : State) (x0 y0 : Byte) (n : Nibble) :
    (spritePixels x0.toNat y0.toNat (s.readData n.toNat)).Nodup := by
  refine nodup_spritePixels _ _ _ ?_
  have := n.isLt
  rw [State.readData_length]
  omega

theorem State.pixel_drawSprite_of_covered (h : s.spriteCovers x0 y0 n px py) :
    (s.drawSprite x0 y0 n).1.pixel px py = !s.disp.pixel px py := by
  obtain ⟨hpixel, -⟩ := blit_spec s.disp _ false (nodup_spritePixels_readData s x0 y0 n)
  rw [State.drawSprite, hpixel, decide_eq_true (mem_spritePixels_readData.mpr h), Bool.xor_true]

/-- The collision bit: some covered pixel was set before (R149). -/
theorem State.collision_drawSprite_iff :
    (s.drawSprite x0 y0 n).2 = true ↔ ∃ px py, s.spriteCovers x0 y0 n px py ∧ s.disp.pixel px py = true := by
  obtain ⟨-, hcollision⟩ := blit_spec s.disp _ false (nodup_spritePixels_readData s x0 y0 n)
  rw [State.drawSprite, hcollision, Bool.false_or, List.any_eq_true, Prod.exists]
  simp only [mem_spritePixels_readData]

theorem State.getV_vf_of_exec_drw (hrange : s.inRange n.toNat = true) (h : exec (.drw x y n) s = .next t) :
    t.getV vf = flagByte (s.drawSprite (s.getV x) (s.getV y) n).2 :=
  holds_of_next (P := fun u => u.getV vf = _) ((exec_drw_of_inRange hrange).symm.trans h) (by
    rw [State.getV_advance, State.getV_setV_self])

end

/-- Settles O48: each covered pixel is called for once, and no other. -/
theorem drwFlipsExactlyTheCoveredPixels : Obligations.DrwFlipsExactlyTheCoveredPixels := by
  intro s x y n hrows
  refine ⟨_, exec_drw_of_inRange (State.inRange_of_rows hrows), ?_, nextPc_toNat s.pc, ?_⟩
  · exact fun px py hcover => State.pixel_drawSprite_of_covered hcover
  · refine State.onlyChanges.advance (State.onlyChanges.setV ?_ (.inr (.inl rfl)) _) (.inl rfl)
    refine State.onlyChanges.setDisp (State.onlyChanges.refl s _) fun px py hp => ?_
    exact blit_readData_of_not_covered fun hcover => hp (.inr (.inr ⟨px, py, rfl, hcover⟩))

/-- Settles O49: VF is the collision bit as a byte. -/
theorem collisionIsAPixelTurnedOff : Obligations.CollisionIsAPixelTurnedOff := by
  intro s t x y n hrows h
  rw [State.getV_vf_of_exec_drw (State.inRange_of_rows hrows) h]
  constructor
  · intro hset
    rw [State.collision_drawSprite_iff.mpr hset]
    rfl
  · intro hclear
    have hnone : ¬ (s.drawSprite (s.getV x) (s.getV y) n).2 = true := by
      rw [State.collision_drawSprite_iff]
      rintro ⟨px, py, hcover, hset⟩
      simp [hclear px py hcover] at hset
    rw [Bool.eq_false_of_not_eq_true hnone]
    rfl

end Sys2Proof.Machine
end

section
/-! PROOFS. The address register and the memory instructions (44_memory_ops.md): the three that set `I` (R155 to R157),
the two that store at `I` (R158, R159, R161), and the one that loads from there (R160). -/

namespace Sys2Proof.Machine

/-! ## The address register -/

/-- An instruction that sets `I` leaves the value there, and writes nothing else but `pc`. -/
theorem State.setI_advance_spec (s : State) {a : Word} {n : Nat} (ha : a.toNat = n) :
    ∃ t, (.next (s.setI a).advance : Result) = .next t ∧ t.i.toNat = n ∧ t.pc.toNat = (s.pc.toNat + 2) % 4096 ∧
      s.onlyChanges t (fun p => p = .pc ∨ p = .i) :=
  ⟨_, rfl, ha, nextPc_toNat s.pc, ((State.onlyChanges.refl s _).setI (.inr rfl) a).advance (.inl rfl)⟩

/-- The low nibble of a byte is its last hexadecimal digit. -/
theorem lowNibble_toNat (b : Byte) : (lowNibble b).toNat = b.toNat % 16 := by
  simp [lowNibble]

/-- Settles O50: `Annn` is the encoding of the form, and a 12-bit value stands in `I` as it is. -/
theorem ldISetsTheAddressRegister : Obligations.LdISetsTheAddressRegister :=
  ⟨fun nnn => decodeWord_encode (ins := .ldI nnn) rfl, fun s nnn => s.setI_advance_spec (addr_setWidth_toNat nnn)⟩

/-- Settles O51: the sum is written wrapped. -/
theorem addIWrapsWithoutFlag : Obligations.AddIWrapsWithoutFlag :=
  fun s _ => s.setI_advance_spec (wrap12_toNat _)

/-- Settles O52: the glyph's address is written wrapped, its digit being the low nibble. -/
theorem ldFPointsAtTheGlyph : Obligations.LdFPointsAtTheGlyph := by
  intro s x
  rw [← lowNibble_toNat]
  exact s.setI_advance_spec (wrap12_toNat _)

/-! ## The stores -/

/-- Where the last of `n + 1` bytes from `I` is in range, the range check lets the instruction go on. -/
theorem State.inRange_of_last {s : State} {n : Nat} (hroom : s.i.toNat + n ≤ 0xFFF) : s.inRange (n + 1) = true :=
  State.inRange_iff.mpr (.inr (by omega))

theorem State.read_writeData (s : State) {bytes : List Byte} {k : Nat} (hk : k < bytes.length) :
    (s.writeData bytes).mem.read (s.i.toNat + k) = bytes[k] :=
  Memory.read_writeBytes_inside s.mem s.i.toNat k bytes hk

/-- An instruction that stores `n + 1` bytes at `I`, the last of them in range: each is where it belongs, and nothing
but those bytes and `pc` is written (20_memory.md R55, R58; decision D8). -/
theorem State.writeData_advance_spec (s : State) {bytes : List Byte} {n : Nat} (hlen : bytes.length = n + 1)
    (hroom : s.i.toNat + n ≤ 0xFFF) :
    ∃ t, s.checkRange (n + 1) (.next (s.writeData bytes).advance) = .next t ∧
      (∀ k, (hk : k < bytes.length) → t.mem.read (s.i.toNat + k) = bytes[k]) ∧
      t.pc.toNat = (s.pc.toNat + 2) % 4096 ∧
      s.onlyChanges t (fun p => p = .pc ∨ ∃ a, p = .memByte a ∧ s.i.toNat ≤ a ∧ a ≤ s.i.toNat + n) := by
  refine ⟨_, State.checkRange_of_inRange _ (State.inRange_of_last hroom), fun k hk => s.read_writeData hk,
    nextPc_toNat s.pc, ?_⟩
  refine State.onlyChanges.advance ((State.onlyChanges.refl s _).writeData fun a hlow hhigh => ?_) (.inl rfl)
  exact .inr ⟨a, rfl, hlow, by omega⟩

/-- The quotients and remainders `BCD` takes are the decimal digits of a byte (R161). -/
theorem byte_decimal_digits (b : Byte) :
    b.toNat = 100 * (b.toNat / 100) + 10 * (b.toNat / 10 % 10) + b.toNat % 10 ∧
      b.toNat / 100 ≤ 2 ∧ b.toNat / 10 % 10 ≤ 9 ∧ b.toNat % 10 ≤ 9 := by
  have := b.isLt
  omega

/-- Settles O53: the three bytes stored are the digits in order. -/
theorem ldBStoresDecimalDigits : Obligations.LdBStoresDecimalDigits := by
  intro s x hroom
  obtain ⟨t, hexec, hbytes, hpc, hframe⟩ := s.writeData_advance_spec (bcdDigits_length (s.getV x)) hroom
  obtain ⟨hvalue, hhundreds, htens, hones⟩ := byte_decimal_digits (s.getV x)
  exact ⟨t, _, _, _, hexec, hbytes 0 (by simp), hbytes 1 (by simp), hbytes 2 (by simp), hvalue, hhundreds, htens,
    hones, hpc, hframe⟩

/-- Settles O54: the bytes stored are `V[0]` to `V[x]` in order. -/
theorem dumpStoresRegisters : Obligations.DumpStoresRegisters := by
  intro s x hroom
  obtain ⟨t, hexec, hbytes, hpc, hframe⟩ := s.writeData_advance_spec (s.regsUpTo_length x) hroom
  refine ⟨t, hexec, fun k hk => ?_, hpc, hframe⟩
  have hindex : k.toNat < (s.regsUpTo x).length := by
    rw [State.regsUpTo_length]
    omega
  rw [hbytes k.toNat hindex, State.regsUpTo_getElem]

/-! ## The load -/

/-- A register up to `x` is the byte at its offset from `I`. -/
theorem regsFromData_of_upTo (s : State) {x k : Nibble} (h : k.toNat ≤ x.toNat) :
    (s.regsFromData x)[k.toNat]'k.isLt = s.mem.read (s.i.toNat + k.toNat) := by
  rw [State.regsFromData_getElem, if_pos h]

/-- Settles O55: the register file is replaced by one that differs up to `x` only. -/
theorem restoreLoadsRegisters : Obligations.RestoreLoadsRegisters := by
  intro s x hroom
  refine ⟨_, State.checkRange_of_inRange _ (State.inRange_of_last hroom), fun k hk => regsFromData_of_upTo s hk,
    nextPc_toNat s.pc, ?_⟩
  refine State.onlyChanges.advance ((State.onlyChanges.refl s _).setRegs fun r hr => ?_) (.inl rfl)
  exact regsFromData_of_above s fun hle => hr (.inr ⟨r, rfl, hle⟩)

end Sys2Proof.Machine
end

section
/-! PROOFS. The keypad (45_keypad.md): the two key skips (R165 to R167), the entry to the key wait (R168) and its end
(R169, R170), and the changes of `mode` that any event makes (R171). -/

namespace Sys2Proof.Machine

/-! ## The key skips and the entry to the wait -/

/-- A query of the keypad and a skip after it write `pc` and the count of queries. -/
theorem State.isPressed_skipIf_frame (s : State) (key : Nibble) (c : Bool) :
    s.onlyChanges ((s.isPressed key).2.skipIf c) (fun p => p = .pc ∨ p = .keyQueries) :=
  ((State.onlyChanges.refl s _).isPressed (.inr rfl) key).skipIf (.inl rfl) c

/-- Settles O57: both are a skip after one query about the low nibble of `V[x]`. -/
theorem keySkipsFollowTheAnswer : Obligations.KeySkipsFollowTheAnswer := by
  intro s x key hkey
  obtain rfl : key = lowNibble (s.getV x) := BitVec.eq_of_toNat_eq (hkey.trans (lowNibble_toNat _).symm)
  refine ⟨⟨_, rfl, State.pc_skipIf_toNat _ _, rfl, s.isPressed_skipIf_frame _ _⟩,
    _, rfl, (State.pc_skipIf_toNat _ _).trans ?_, rfl, s.isPressed_skipIf_frame _ _⟩
  rw [State.pc_isPressed, State.isPressed_answer]
  cases Config.freeKeyPressed s.keyQueries (lowNibble (s.getV x)) <;> rfl

/-- Settles O58: the entry is one write of `mode`. -/
theorem keyWaitEntryChangesOnlyMode : Obligations.KeyWaitEntryChangesOnlyMode :=
  fun s x => ⟨s.setMode (.awaitingKey x), rfl, rfl, (State.onlyChanges.refl s fun p => p = .mode).setMode rfl _⟩

/-! ## The end of the wait -/

theorem step_of_awaitingKey {s : State} {x : Nibble} {k : Option Nibble} (hwait : s.mode = .awaitingKey x)
    (hevent : s.nextEvent = .step k) :
    step s = .next (k.elim s.takeEvent (s.takeEvent.resumeKey x)) := by
  rw [step, hevent, applyEvent, stepEvent, State.mode_takeEvent, hwait]
  cases k <;> rfl

theorem State.getV_resumeKey_toNat (s : State) (x key : Nibble) : ((s.resumeKey x key).getV x).toNat = key.toNat := by
  rw [State.resumeKey, State.getV_setMode, State.getV_advance, State.getV_setV_self]
  exact BitVec.toNat_setWidth_of_le (by decide)

theorem State.resumeKey_frame (s : State) (x key : Nibble) :
    s.onlyChanges (s.resumeKey x key) (fun p => p = .reg x ∨ p = .pc ∨ p = .mode) :=
  (((State.onlyChanges.refl s _).setV (.inl rfl) _).advance (.inr (.inl rfl))).setMode (.inr (.inr rfl)) _

/-- Settles O11: without a key the event is taken and nothing else; with one the waiting instruction completes. -/
theorem keyReportResumesTheWait : Obligations.KeyReportResumesTheWait := by
  intro s x hwait
  refine ⟨step_of_awaitingKey hwait, fun key hevent => ?_⟩
  exact ⟨_, step_of_awaitingKey hwait hevent, State.getV_resumeKey_toNat _ x key, nextPc_toNat s.pc, rfl,
    State.resumeKey_frame _ x key⟩

/-! ## The transitions of `mode` (R171) -/

theorem State.checkRange_changes_mode {s t u : State} {n : Nat} (h : s.checkRange n (.next u) = .next t)
    (hu : u.mode = s.mode) (hne : t.mode ≠ s.mode) : t.mode = .halted .dataAddressFault s.pc := by
  rcases State.checkRange_cases h with ⟨-, hnext⟩ | ⟨-, rfl⟩
  · exact absurd (mode_of_next hnext hu) hne
  · rfl

/-- An instruction that changes `mode` is `LD Vx, K`, or one of the six that can fault: by the frame there is no
other. None of the six raises LoadFault (60_exceptions.md R191). -/
theorem exec_changes_mode {ins : Instr} {s t : State} (h : exec ins s = .next t) (hne : t.mode ≠ s.mode) :
    (∃ x, ins = .ldVxK x ∧ t.mode = .awaitingKey x) ∨ ∃ c, c ≠ .loadFault ∧ t.mode = .halted c s.pc := by
  have hframe := instructionsWriteOnlyWhatTheTableGivesThem ins s t h .mode
  rcases not_imp_comm.mp hframe hne with
    ⟨x, rfl⟩ | rfl | ⟨nnn, rfl⟩ | ⟨x, y, n, rfl⟩ | ⟨x, rfl⟩ | ⟨x, rfl⟩ | ⟨x, rfl⟩
  · exact .inl ⟨x, rfl, mode_of_next h rfl⟩
  · replace h : execRet s = .next t := h
    rcases execRet_cases s with ⟨-, hr⟩ | ⟨-, -, hr⟩ | ⟨-, -, hr⟩ <;> rw [hr] at h
    · exact .inr ⟨.stackUnderflow, nofun, mode_of_next h rfl⟩
    · exact absurd (mode_of_next h rfl) hne
    · cases h
  · replace h : execCall nnn s = .next t := h
    rcases execCall_cases nnn s with ⟨-, hr⟩ | ⟨-, hr⟩ <;> rw [hr] at h
    · exact absurd (mode_of_next h rfl) hne
    · exact .inr ⟨.stackOverflow, nofun, mode_of_next h rfl⟩
  · exact .inr ⟨.dataAddressFault, nofun, State.checkRange_changes_mode h rfl hne⟩
  · exact .inr ⟨.dataAddressFault, nofun, State.checkRange_changes_mode h rfl hne⟩
  · exact .inr ⟨.dataAddressFault, nofun, State.checkRange_changes_mode h rfl hne⟩
  · have hload := (State.mode_advance _).trans (s.mode_setRegs (s.regsFromData x))
    exact .inr ⟨.dataAddressFault, nofun, State.checkRange_changes_mode h hload hne⟩

/-- A `Step` of a running engine changes `mode` by the instruction at `pc`, or by the fault of its fetch or decode. -/
theorem runInstruction_changes_mode {s t : State} (h : runInstruction s = .next t) (hne : t.mode ≠ s.mode) :
    (∃ x, s.fetched = some (.ldVxK x) ∧ t.mode = .awaitingKey x) ∨
      ∃ c, c ≠ .loadFault ∧ t.mode = .halted c s.pc := by
  rcases runInstruction_cases s with ⟨-, hr⟩ | ⟨_, _, -, -, hr⟩ | ⟨_, ins, -, -, hins, hr⟩ <;> rw [hr] at h
  · exact .inr ⟨.fetchFault, nofun, mode_of_next h rfl⟩
  · exact .inr ⟨.invalidInstruction, nofun, mode_of_next h rfl⟩
  · refine (exec_changes_mode h hne).imp_left ?_
    rintro ⟨x, rfl, hmode⟩
    exact ⟨x, hins, hmode⟩

/-- `Reset` ends in Running, or in the halt of a program that does not fit (70_reset_and_hazards.md R221). -/
theorem State.mode_resetTo_cases (s : State) (program : List Byte) (origin : Addr) :
    (s.resetTo program origin).mode = .running ∨
      (s.resetTo program origin).mode = .halted .loadFault (origin.setWidth 16) := by
  unfold State.resetTo
  split
  · exact .inr rfl
  · exact .inl rfl

/-- Settles O21: of all that one step can do, three ways leave `mode` as it was, and each other is a row of the
table. -/
theorem modeChangesOnlyAsTheTableSays : Obligations.ModeChangesOnlyAsTheTableSays := by
  intro s t h hne
  rcases step_cases s with ⟨hexec, hr⟩ | ⟨_, -, -, hr⟩ | ⟨x, key, hwait, hevent, hr⟩ | ⟨_, _, _, -, -, hr⟩ |
      ⟨-, hr⟩ | ⟨program, origin, hevent, hr⟩ <;> rw [hr] at h
  · rcases runInstruction_changes_mode h hne with hentry | hfault
    · exact .inr (.inl ⟨hexec, hentry⟩)
    · exact .inr (.inr (.inl ⟨hexec, hfault⟩))
  · exact absurd (mode_of_next h rfl) hne
  · exact .inr (.inr (.inr ⟨x, key, hwait, hevent, mode_of_next h rfl⟩))
  · exact absurd (mode_of_next h rfl) hne
  · exact absurd (mode_of_next h (State.mode_tick _)) hne
  · cases h
    exact .inl ⟨program, origin, hevent, State.mode_resetTo_cases _ _ _⟩

end Sys2Proof.Machine
end

section
/-! PROOFS. The timers (46_timers.md): the instructions that reach them (R175 to R177), the `Tick` (R178), and the calls
of the audio port (R179), which are made by a write of ST and by nothing else. -/

namespace Sys2Proof.Machine

/-! ## The delay timer -/

/-- Settles O59: both instructions are one write and the advance. -/
theorem delayTimerReadAndSet : Obligations.DelayTimerReadAndSet := by
  intro s x
  refine ⟨⟨(s.setV x s.dt).advance, rfl, ?_, nextPc_toNat s.pc, ?_⟩,
    (s.setDt (s.getV x)).advance, rfl, rfl, nextPc_toNat s.pc, ?_⟩
  · rw [State.getV_advance, State.getV_setV_self]
  · exact ((State.onlyChanges.refl s _).setV (.inr rfl) _).advance (.inl rfl)
  · exact ((State.onlyChanges.refl s _).setDt (.inr rfl) _).advance (.inl rfl)

/-! ## A write of ST, by the level before and after -/

theorem State.audio_setSound_by_level (s : State) (b : Byte) :
    (s.setSound b).audio = if (s.st ≠ 0 ↔ b ≠ 0) then s.audio else (b != 0) :: s.audio := by
  have hlevel : (s.st == 0) = (b == 0) ↔ (s.st = 0 ↔ b = 0) := by
    rw [Bool.eq_iff_iff, beq_iff_eq, beq_iff_eq]
  simp only [State.audio_setSound, bne_iff_ne, ne_eq, hlevel, not_iff_not, ite_not]

theorem State.audio_setSound_of_start {s : State} {b : Byte} (hoff : s.st = 0) (hon : b ≠ 0) :
    (s.setSound b).audio = true :: s.audio := by
  rw [State.audio_setSound_by_level, if_neg fun hlevel => hlevel.mpr hon hoff, bne_iff_ne.mpr hon]

theorem State.audio_setSound_of_end {s : State} {b : Byte} (hon : s.st ≠ 0) (hoff : b = 0) :
    (s.setSound b).audio = false :: s.audio := by
  rw [State.audio_setSound_by_level, if_neg fun hlevel => hlevel.mp hon hoff, hoff, bne_self_eq_false]

theorem State.audio_setSound_of_same_level {s : State} {b : Byte} (hlevel : s.st = 0 ↔ b = 0) :
    (s.setSound b).audio = s.audio := by
  rw [State.audio_setSound_by_level, if_pos (not_congr hlevel)]

/-- Settles O60: the instruction is the write of ST and the advance. -/
theorem soundTimerSetReportsTheTone : Obligations.SoundTimerSetReportsTheTone := by
  intro s x
  refine ⟨(s.setSound (s.getV x)).advance, rfl, s.st_setSound _, State.audio_setSound_of_start,
    State.audio_setSound_of_end, State.audio_setSound_of_same_level, ?_, ?_⟩
  · rw [← s.pc_setSound (s.getV x)]
    exact nextPc_toNat _
  · exact ((State.onlyChanges.refl s _).setSound (.inr (.inl rfl)) (.inr (.inr rfl)) _).advance (.inl rfl)

/-! ## What a step does to the timers -/

/-- `t` has the timers and the record of audio calls of `s`. -/
def State.sameTimers (s t : State) : Prop := t.dt = s.dt ∧ t.st = s.st ∧ t.audio = s.audio

/-- The timers are the business of an executed instruction, of `Tick` and of `Reset`; a fault of the fetch or the
decode, and a `Step` in the other two modes, leave them. -/
theorem step_timers_cases {s t : State} (h : step s = .next t) :
    (s.executes ∧ ∃ ins, s.fetched = some ins ∧ exec ins s.takeEvent = .next t) ∨ s.sameTimers t ∨
      (s.nextEvent = .tick ∧ t = s.takeEvent.tick) ∨
      ∃ program origin, s.nextEvent = .reset program origin ∧ t = s.takeEvent.resetTo program origin := by
  rcases step_cases s with ⟨hexec, hs⟩ | ⟨_, -, -, hs⟩ | ⟨_, _, -, -, hs⟩ | ⟨_, _, _, -, -, hs⟩ | ⟨hevent, hs⟩ |
      ⟨program, origin, hevent, hs⟩ <;> rw [hs] at h
  · rcases runInstruction_cases s.takeEvent with ⟨-, hr⟩ | ⟨_, _, -, -, hr⟩ | ⟨_, ins, -, -, hins, hr⟩ <;> rw [hr] at h
    · exact .inr (.inl (holds_of_next h ⟨rfl, rfl, rfl⟩))
    · exact .inr (.inl (holds_of_next h ⟨rfl, rfl, rfl⟩))
    · exact .inl ⟨hexec, ins, hins, h⟩
  · exact .inr (.inl (holds_of_next h ⟨rfl, rfl, rfl⟩))
  · exact .inr (.inl (holds_of_next h ⟨rfl, rfl, rfl⟩))
  · exact .inr (.inl (holds_of_next h ⟨rfl, rfl, rfl⟩))
  · exact .inr (.inr (.inl ⟨hevent, (Host.Outcome.next.inj h).symm⟩))
  · exact .inr (.inr (.inr ⟨program, origin, hevent, (Host.Outcome.next.inj h).symm⟩))

/-- A `Step` that changes a timer is one of the two instructions the access table gives a timer to. -/
theorem stepEvent_changes_timer {s t : State} {k : Option Nibble} (hevent : s.nextEvent = .step k)
    (h : step s = .next t) :
    (t.dt ≠ s.dt → s.mode = .running ∧ ∃ x, s.fetched = some (.ldDtVx x)) ∧
      (t.st ≠ s.st → s.mode = .running ∧ ∃ x, s.fetched = some (.ldStVx x)) := by
  rcases step_timers_cases h with ⟨⟨hrun, -⟩, ins, hins, hexec⟩ | ⟨hdt, hst, -⟩ | ⟨htick, -⟩ | ⟨_, _, hreset, -⟩
  · have hframe := instructionsWriteOnlyWhatTheTableGivesThem ins s.takeEvent t hexec
    constructor <;> intro hne
    · obtain ⟨x, rfl⟩ := not_imp_comm.mp (hframe .dt) hne
      exact ⟨hrun, x, hins⟩
    · obtain ⟨x, rfl⟩ := not_imp_comm.mp (hframe .st) hne
      exact ⟨hrun, x, hins⟩
  · exact ⟨absurd hdt, absurd hst⟩
  · cases hevent.symm.trans htick
  · cases hevent.symm.trans hreset

/-! ## The tick -/

theorem step_of_tick {s : State} (hevent : s.nextEvent = .tick) : step s = .next s.takeEvent.tick := by
  rw [step, hevent, applyEvent]

theorem State.tick_of_safe {s : State} (hsafe : s.safe = true) :
    s.tick = (s.setDt (countDown s.dt)).setSound (countDown s.st) := by
  rcases s.tick_cases with ⟨-, h⟩ | ⟨hhalted, -⟩
  · exact h
  · cases hsafe.symm.trans hhalted

theorem countDown_eq_zero_iff (b : Byte) : countDown b = 0 ↔ b.toNat ≤ 1 := by
  rw [← BitVec.toNat_inj, countDown_toNat]
  exact Nat.sub_eq_zero_iff_le

/-- The tone ends exactly where ST counts down from 1, and a tick never begins one (R178, R179). -/
theorem State.audio_setSound_countDown (s : State) :
    (s.setSound (countDown s.st)).audio = if s.st.toNat = 1 then false :: s.audio else s.audio := by
  have hoff : s.st = 0 ↔ s.st.toNat = 0 := BitVec.toNat_inj.symm
  have hdown := countDown_eq_zero_iff s.st
  split
  next hone => exact State.audio_setSound_of_end (mt hoff.mp (by omega)) (hdown.mpr (by omega))
  next hother => exact State.audio_setSound_of_same_level (by rw [hoff, hdown]; omega)

/-- Settles O12: a tick is the count-down of DT and the write of the counted-down ST. -/
theorem tickCountsTheTimersDown : Obligations.TickCountsTheTimersDown := by
  refine ⟨fun s hevent hmode => ?_, fun s t k hevent h => stepEvent_changes_timer hevent h⟩
  have hsafe : s.takeEvent.safe = true := by
    rcases hmode with hrun | ⟨x, hwait⟩
    · exact State.safe_of_running hrun
    · exact State.safe_of_awaitingKey hwait
  refine ⟨_, (step_of_tick hevent).trans (congrArg _ (State.tick_of_safe hsafe)), ?_, ?_, ?_, ?_⟩
  · rw [State.dt_setSound]
    exact countDown_toNat s.dt
  · rw [State.st_setSound]
    exact countDown_toNat s.st
  · exact (s.takeEvent.setDt (countDown s.dt)).audio_setSound_countDown
  · exact ((State.onlyChanges.refl _ _).setDt (.inl rfl) _).setSound (.inr (.inl rfl)) (.inr (.inr rfl)) _

/-! ## The calls of the audio port (R179) -/

/-- From `s` to `t` the port is called once, with the new level, where the level changes, and not called otherwise. -/
def State.reportsTone (s t : State) : Prop :=
  t.audio = if (s.st ≠ 0 ↔ t.st ≠ 0) then s.audio else (t.st != 0) :: s.audio

theorem State.reportsTone_of_same {s t : State} (hst : t.st = s.st) (haudio : t.audio = s.audio) :
    s.reportsTone t := by
  rw [State.reportsTone, hst, if_pos Iff.rfl, haudio]

theorem State.reportsTone_setSound (s : State) (b : Byte) : s.reportsTone (s.setSound b) := by
  rw [State.reportsTone, State.st_setSound]
  exact s.audio_setSound_by_level b

theorem State.reportsTone_tick (s : State) : s.reportsTone s.tick := by
  rcases s.tick_cases with ⟨-, h⟩ | ⟨-, h⟩ <;> rw [h]
  · exact (s.setDt (countDown s.dt)).reportsTone_setSound (countDown s.st)
  · exact State.reportsTone_of_same rfl rfl

/-- `LD ST, Vx` writes ST with its report; by the frame no other instruction touches ST or the port. -/
theorem exec_reportsTone {ins : Instr} {s t : State} (h : exec ins s = .next t) : s.reportsTone t := by
  by_cases hset : ∃ x, ins = .ldStVx x
  · obtain ⟨x, rfl⟩ := hset
    exact holds_of_next h (s.reportsTone_setSound (s.getV x))
  · have hframe := instructionsWriteOnlyWhatTheTableGivesThem ins s t h
    exact State.reportsTone_of_same (hframe .st hset) (hframe .audio hset)

/-- `Reset` clears ST without a call (decision D19). -/
theorem State.resetTo_clears_tone_silently (s : State) (program : List Byte) (origin : Addr) :
    (s.resetTo program origin).audio = s.audio ∧ (s.resetTo program origin).st = 0 := by
  unfold State.resetTo
  split <;> exact ⟨rfl, rfl⟩

theorem step_of_reset {s : State} {program : List Byte} {origin : Addr} (hevent : s.nextEvent = .reset program origin) :
    step s = .next (s.takeEvent.resetTo program origin) := by
  rw [step, hevent, applyEvent]

/-- Settles O24: whatever a step does to ST, it does by a write that reports the level, or it is a `Reset`. -/
theorem toneIsReportedExactlyOnTransitions : Obligations.ToneIsReportedExactlyOnTransitions := by
  intro s t h
  constructor
  · rintro ⟨program, origin, hevent⟩
    rw [step_of_reset hevent] at h
    exact holds_of_next (P := fun u => u.audio = s.audio ∧ u.st = 0) h
      (s.takeEvent.resetTo_clears_tone_silently program origin)
  · intro hnoReset
    change s.reportsTone t
    rcases step_timers_cases h with ⟨-, ins, -, hexec⟩ | ⟨-, hst, haudio⟩ | ⟨-, rfl⟩ | ⟨program, origin, hevent, -⟩
    · exact exec_reportsTone (s := s.takeEvent) hexec
    · exact State.reportsTone_of_same hst haudio
    · exact s.takeEvent.reportsTone_tick
    · exact absurd hevent (hnoReset program origin)

end Sys2Proof.Machine
end

section
/-! PROOFS. The faults of the hardware (60_exceptions.md): which word or instruction raises which cause (R192 to R194),
that a fault is precise (R198), and that a halted machine stands still until `Reset` (R201). -/

namespace Sys2Proof.Machine

/-! ## The call stack's two faults (R193, R194) -/

/-- Settles O31: the push finds no room, and the fault is all that happens. -/
theorem callOnFullStackRaisesStackOverflow : Obligations.CallOnFullStackRaisesStackOverflow := by
  intro s nnn hfull
  rcases execCall_cases nnn s with ⟨hroom, -⟩ | ⟨-, hcall⟩
  · exact absurd hroom (Nat.not_lt.mpr hfull)
  · rw [exec, hcall]
    exact raiseFault_changes_only_mode .stackOverflow s

/-- Settles O33: SP zero is tested first, so only an SP beyond the capacity reaches the model's own stop. -/
theorem retOnEmptyStackRaisesStackUnderflow : Obligations.RetOnEmptyStackRaisesStackUnderflow := by
  constructor
  · intro s hempty
    rcases execRet_cases s with ⟨-, hret⟩ | ⟨hne, -, -⟩ | ⟨hne, -, -⟩
    · rw [exec, hret]
      exact raiseFault_changes_only_mode .stackUnderflow s
    · exact absurd hempty hne
    · exact absurd hempty hne
  · intro s hbeyond
    rcases execRet_cases s with ⟨hempty, -⟩ | ⟨-, hlive, -⟩ | ⟨-, -, hret⟩
    · rw [hempty] at hbeyond
      exact absurd hbeyond (Nat.not_lt_zero _)
    · exact absurd hbeyond (Nat.not_lt.mpr hlive)
    · exact hret

/-! ## Precision (R198) -/

/-- A running engine that halts has changed `mode` and nothing else, whatever halted it. -/
theorem runInstruction_halted {s t : State} {c : Cause} {a : Word} (hrun : s.mode = .running)
    (h : runInstruction s = .next t) (hhalt : t.mode = .halted c a) : t = s.setMode (.halted c s.pc) := by
  obtain ⟨c', rfl⟩ : ∃ c', t = s.setMode (.halted c' s.pc) := by
    rcases runInstruction_cases s with ⟨-, hr⟩ | ⟨_, _, -, -, hr⟩ | ⟨_, _, -, -, -, hr⟩ <;> rw [hr] at h
    · exact ⟨_, raiseFault_eq_next.mp h⟩
    · exact ⟨_, raiseFault_eq_next.mp h⟩
    · rcases exec_mode_cases h with hsame | ⟨x, -, rfl⟩ | hfault
      · cases hhalt.symm.trans (hsame.trans hrun)
      · cases hhalt
      · exact hfault
  cases hhalt
  rfl

/-- Settles O20: an executing step is the run of one instruction. -/
theorem faultsArePrecise : Obligations.FaultsArePrecise := by
  rintro s t c a ⟨hrun, k, hevent⟩ h hhalt
  rw [step_of_running hevent hrun] at h
  exact runInstruction_halted (s := s.takeEvent) hrun h hhalt

/-! ## The unmapped word (R192) -/

theorem State.wordAt_of_fetch {s : State} {w : Word} (h : s.fetch = some w) : s.wordAt s.pc.toNat = w := by
  unfold State.fetch at h
  split at h
  · exact Option.some.inj h
  · cases h

theorem State.onlyChanges.wordAt_eq {s t : State} {changed : Part → Prop} (h : s.onlyChanges t changed)
    (hmem : ∀ a, ¬ changed (.memByte a)) (a : Nat) : t.wordAt a = s.wordAt a :=
  congrArg₂ wordOfBytes (h (.memByte a) (hmem a)) (h (.memByte (a + 1)) (hmem (a + 1)))

theorem runInstruction_of_unmapped {s : State} {w : Word} {miss : DecodeMiss} (hfetch : s.fetch = some w)
    (hdecode : decodeWord w = .error miss) : runInstruction s = raiseFault .invalidInstruction s := by
  simp only [runInstruction, hfetch, hdecode]

/-- The causes an instruction of the table can raise are those of the call stack and of the range check (R191): by the
frame, one that leaves Running is `LD Vx, K`, which does not halt, or one of the six that can fault. -/
theorem exec_halted_cause {ins : Instr} {s t : State} {c : Cause} {a : Word} (h : exec ins s = .next t)
    (hne : t.mode ≠ s.mode) (hhalt : t.mode = .halted c a) :
    (ins = .ret ∧ c = .stackUnderflow) ∨ (∃ nnn, ins = .call nnn ∧ c = .stackOverflow) ∨ c = .dataAddressFault := by
  have hframe := instructionsWriteOnlyWhatTheTableGivesThem ins s t h .mode
  have hrange {n : Nat} {u : State} (hcheck : s.checkRange n (.next u) = .next t) (hu : u.mode = s.mode) :
      c = .dataAddressFault := by
    cases hhalt.symm.trans (State.checkRange_changes_mode hcheck hu hne)
    rfl
  rcases not_imp_comm.mp hframe hne with
    ⟨x, rfl⟩ | rfl | ⟨nnn, rfl⟩ | ⟨x, y, n, rfl⟩ | ⟨x, rfl⟩ | ⟨x, rfl⟩ | ⟨x, rfl⟩
  · cases hhalt.symm.trans (mode_of_next h rfl)
  · replace h : execRet s = .next t := h
    rcases execRet_cases s with ⟨-, hr⟩ | ⟨-, -, hr⟩ | ⟨-, -, hr⟩ <;> rw [hr] at h
    · cases hhalt.symm.trans (mode_of_next h rfl)
      exact .inl ⟨rfl, rfl⟩
    · exact absurd (mode_of_next h rfl) hne
    · cases h
  · replace h : execCall nnn s = .next t := h
    rcases execCall_cases nnn s with ⟨-, hr⟩ | ⟨-, hr⟩ <;> rw [hr] at h
    · exact absurd (mode_of_next h rfl) hne
    · cases hhalt.symm.trans (mode_of_next h rfl)
      exact .inr (.inl ⟨nnn, rfl, rfl⟩)
  · exact .inr (.inr (hrange h rfl))
  · exact .inr (.inr (hrange h rfl))
  · exact .inr (.inr (hrange h rfl))
  · exact .inr (.inr (hrange h ((State.mode_advance _).trans (s.mode_setRegs (s.regsFromData x)))))

/-- InvalidInstruction comes of a decode that fails: neither the fetch nor any instruction raises it. -/
theorem runInstruction_invalidInstruction {s t : State} {a : Word} (h : runInstruction s = .next t)
    (hne : t.mode ≠ s.mode) (hhalt : t.mode = .halted .invalidInstruction a) :
    ∃ w miss, s.fetch = some w ∧ decodeWord w = .error miss := by
  rcases runInstruction_cases s with ⟨-, hr⟩ | ⟨w, miss, hfetch, hdecode, -⟩ | ⟨_, _, -, -, -, hr⟩
  · rw [hr] at h
    cases hhalt.symm.trans (mode_of_next h rfl)
  · exact ⟨w, miss, hfetch, hdecode⟩
  · rw [hr] at h
    rcases exec_halted_cause h hne hhalt with ⟨-, ⟨⟩⟩ | ⟨_, -, ⟨⟩⟩ | ⟨⟨⟩⟩

/-- Settles O9: of the four ways to change `mode`, only a fault of an executing step halts with this cause. -/
theorem unmappedWordRaisesInvalidInstruction : Obligations.UnmappedWordRaisesInvalidInstruction := by
  constructor
  · intro s k w miss hevent hrun hfetch hdecode
    rw [step_of_running hevent hrun,
      runInstruction_of_unmapped (s.fetch_takeEvent.trans hfetch) hdecode]
    obtain ⟨t, hnext, hmode, hframe⟩ := raiseFault_changes_only_mode .invalidInstruction s.takeEvent
    exact ⟨t, hnext, hmode, (hframe.wordAt_eq nofun _).trans (State.wordAt_of_fetch hfetch), hframe⟩
  · intro s t a h hne hhalt
    rcases modeChangesOnlyAsTheTableSays s t h hne with ⟨_, _, -, hmode | hmode⟩ | ⟨-, _, -, hmode⟩ |
        ⟨hexec, c, -, hmode⟩ | ⟨_, _, -, -, hmode⟩
    · cases hhalt.symm.trans hmode
    · cases hhalt.symm.trans hmode
    · cases hhalt.symm.trans hmode
    · cases hhalt.symm.trans hmode
      obtain ⟨hrun, k, hevent⟩ := hexec
      rw [step_of_running hevent hrun] at h
      exact ⟨⟨hrun, k, hevent⟩, rfl, runInstruction_invalidInstruction (s := s.takeEvent) h hne hhalt⟩
    · cases hhalt.symm.trans hmode

/-! ## The halted machine (R201) -/

/-- In Halted an event that is no `Reset` is taken and does nothing (decision D18). -/
theorem step_of_halted {s : State} {c : Cause} {a : Word} (hhalt : s.mode = .halted c a)
    (hnoReset : ∀ program origin, s.nextEvent ≠ .reset program origin) : step s = .next s.takeEvent := by
  unfold step applyEvent
  cases hevent : s.nextEvent with
  | step k => simp only [stepEvent, State.mode_takeEvent, hhalt]
  | tick => simp only [State.tick, State.mode_takeEvent, hhalt]
  | reset program origin => exact absurd hevent (hnoReset program origin)

/-- Settles O10: the other rows of the table of transitions begin in Running or in AwaitingKey. -/
theorem haltedAbsorbsStepAndTick : Obligations.HaltedAbsorbsStepAndTick := by
  intro s c a hhalt
  constructor
  · rintro (hevent | ⟨k, hevent⟩)
    · exact step_of_halted hhalt (by simp [hevent])
    · exact step_of_halted hhalt (by simp [hevent])
  · intro t h hne
    rcases modeChangesOnlyAsTheTableSays s t h hne with ⟨program, origin, hevent, -⟩ | ⟨⟨hrun, -⟩, -⟩ |
        ⟨⟨hrun, -⟩, -⟩ | ⟨_, _, hwait, -, -⟩
    · exact ⟨program, origin, hevent⟩
    · cases hhalt.symm.trans hrun
    · cases hhalt.symm.trans hrun
    · cases hhalt.symm.trans hwait

end Sys2Proof.Machine
end

section
/-! PROOFS. `Reset` (70_reset_and_hazards.md R220, R221), with a program that fits and with one that does not
(60_exceptions.md R195), and the end of a run (R232). -/

namespace Sys2Proof.Machine

/-! ## What `Reset` leaves -/

theorem State.resetTo_of_fits {s : State} {program : List Byte} {origin : Addr}
    (h : origin.toNat + program.length ≤ 4096) :
    s.resetTo program origin =
      ((s.zeroed.setPc (origin.setWidth 16)).setMem
        ((fontMemory s.cfg).writeBytes origin.toNat program)).setMode .running :=
  if_neg (Nat.not_lt.mpr h)

theorem State.resetTo_of_too_long {s : State} {program : List Byte} {origin : Addr}
    (h : origin.toNat + program.length > 4096) :
    s.resetTo program origin =
      (s.zeroed.setPc (origin.setWidth 16)).setMode (.halted .loadFault (origin.setWidth 16)) :=
  if_pos h

theorem State.getV_zeroed (s : State) (r : Nibble) : s.zeroed.getV r = 0 := Vector.getElem_replicate r.isLt

theorem State.stackEntry_zeroed (s : State) (k : Fin 16) : s.zeroed.stack[k] = 0 := Vector.getElem_replicate k.isLt

/-- Settles O13: the program lies over the memory that holds the font, and everything else is what the first part of
`Reset` leaves. -/
theorem resetEventZeroesAndLoads : Obligations.ResetEventZeroesAndLoads := by
  intro s program origin hevent hfits
  refine ⟨_, (step_of_reset hevent).trans (congrArg _ (State.resetTo_of_fits hfits)), rfl, addr_setWidth_toNat origin,
    rfl, rfl, rfl, rfl, s.takeEvent.getV_zeroed, s.takeEvent.stackEntry_zeroed, Display.pixel_blank, fun j => ?_,
    fun a houtside => ?_, rfl, rfl, rfl, rfl, rfl⟩
  · exact Memory.read_writeBytes_inside _ _ _ _ j.isLt
  · exact (Memory.read_writeBytes_outside _ _ houtside).trans (fontMemory_read s.cfg a)

/-! ## A halted machine runs no further -/

theorem State.onlyChanges.takeEvent {s t : State} {changed : Part → Prop} (h : s.onlyChanges t changed)
    (hpending : changed .pending) : s.onlyChanges t.takeEvent changed := by
  refine h.trans fun p hp => ?_
  cases p with
  | pending => exact absurd hpending hp
  | _ => rfl

/-- The next event is one of the queue or the `Step(none)` of an empty queue (log entry 1). -/
theorem State.nextEvent_ne_reset {s : State} (hqueue : ∀ p o, Event.reset p o ∉ s.pending) (program : List Byte)
    (origin : Addr) : s.nextEvent ≠ .reset program origin := by
  unfold State.nextEvent
  split
  next => nofun
  next e es hpending =>
    rintro rfl
    exact hqueue program origin (hpending ▸ List.mem_cons_self)

theorem run_succ_of_next {M : Host.Core} {s t : M.State} {n : Nat} (h : M.step s = .next t) :
    M.run (n + 1) s = M.run n t := by
  rw [Host.Core.run, h]

/-- With no `Reset` to come, any number of events takes a halted machine to itself, the queue apart. -/
theorem run_of_halted {c : Cause} {a : Word} (n : Nat) {s : State} (hhalt : s.mode = .halted c a)
    (hqueue : ∀ p o, Event.reset p o ∉ s.pending) :
    ∃ u, Host.Core.run core n s = .next u ∧ s.onlyChanges u (fun p => p = .pending) := by
  induction n generalizing s with
  | zero => exact ⟨s, rfl, State.onlyChanges.refl s _⟩
  | succ n ih =>
    have hstep : core.step s = .next s.takeEvent := step_of_halted hhalt (State.nextEvent_ne_reset hqueue)
    obtain ⟨u, hrun, hframe⟩ := ih (s := s.takeEvent) hhalt fun p o hmem => hqueue p o (List.mem_of_mem_tail hmem)
    exact ⟨u, (run_succ_of_next hstep).trans hrun,
      ((State.onlyChanges.refl s fun p => p = .pending).takeEvent rfl).trans hframe⟩

/-- Settles O14: only the font is stored, and the halt is for good. -/
theorem programThatDoesNotFitNeverRuns : Obligations.ProgramThatDoesNotFitNeverRuns := by
  intro s program origin hevent hlong
  exact ⟨_, (step_of_reset hevent).trans (congrArg _ (State.resetTo_of_too_long hlong)), rfl,
    addr_setWidth_toNat origin, rfl, rfl, rfl, rfl, s.takeEvent.getV_zeroed, s.takeEvent.stackEntry_zeroed,
    Display.pixel_blank, fontMemory_read s.cfg, rfl, rfl, rfl, rfl, rfl, fun hqueue n => run_of_halted n rfl hqueue⟩

/-! ## The end of a run (R232) -/

/-- The word `0x1000 | pc` is the jump to `pc`. -/
theorem decodeWord_jump_to_pc {pc : Word} (h : pc.toNat < 4096) :
    decodeWord (0x1000 ||| pc) = .ok (.jp (pc.setWidth 12)) := by
  have hword : encode (.jp (pc.setWidth 12)) = 0x1000 ||| pc := by
    refine BitVec.eq_of_toNat_eq ?_
    rw [encode, wordA, BitVec.toNat_append, BitVec.toNat_or, BitVec.toNat_setWidth, Nat.mod_eq_of_lt h]
    rfl
  rw [← hword]
  exact decodeWord_encode rfl

/-- A `pc` inside the address space is a 12-bit address. -/
theorem setWidth_setWidth_of_lt {pc : Word} (h : pc.toNat < 4096) : (pc.setWidth 12).setWidth 16 = pc :=
  BitVec.eq_of_toNat_eq ((addr_setWidth_toNat _).trans (by rw [BitVec.toNat_setWidth]; exact Nat.mod_eq_of_lt h))

/-- The end of a run is told by `mode`, `pc` and memory alone. -/
theorem State.atEnd.of_onlyChanges {s t : State} {changed : Part → Prop} (hend : s.atEnd)
    (h : s.onlyChanges t changed) (hmode : ¬ changed .mode) (hpc : ¬ changed .pc)
    (hmem : ∀ a, ¬ changed (.memByte a)) : t.atEnd := by
  obtain ⟨hrun, hword⟩ := hend
  have hsame : t.mode = s.mode ∧ t.pc = s.pc := ⟨h .mode hmode, h .pc hpc⟩
  rw [State.atEnd, hsame.1, hsame.2, h.wordAt_eq hmem]
  exact ⟨hrun, hword⟩

/-- Settles O26: the jump writes to `pc` what it holds, and a tick reaches neither `mode` nor `pc` nor memory. -/
theorem endOfRunIsAFixedPoint : Obligations.EndOfRunIsAFixedPoint := by
  intro s hend heven hroom
  have ⟨hrun, hword⟩ := hend
  constructor
  · intro k hevent
    have hlt : s.pc.toNat < 4096 := by omega
    have hdecode : decodeWord (s.wordAt s.pc.toNat) = .ok (.jp (s.pc.setWidth 12)) :=
      hword ▸ decodeWord_jump_to_pc hlt
    rw [stepRunsTheDecodedInstruction s k _ hevent hrun heven hroom hdecode, exec, execJp, setWidth_setWidth_of_lt hlt]
    rfl
  · intro hevent
    obtain ⟨t, hstep, hdt, hst, -, hframe⟩ := tickCountsTheTimersDown.1 s hevent (.inl hrun)
    have hend' : t.atEnd := State.atEnd.of_onlyChanges (s := s.takeEvent) hend hframe nofun nofun nofun
    exact ⟨t, hstep, hend', by omega, by omega, hframe⟩

end Sys2Proof.Machine
end
